-- ==== Sys2Proof/Word.lean ====
section
/-! DEFINITION. The two word sizes of the BPD (00_scope.md R8): a byte is an 8-bit value, a word a 32-bit value. -/

namespace Sys2Proof

/-- An 8-bit unsigned value (R8). -/
abbrev Byte := BitVec 8

/-- A 32-bit value (R8): every control register is one word (R22). -/
abbrev Word := BitVec 32

end Sys2Proof
end

