-- ==== Sys2Proof/Syntax.lean ====
section
/-! DEFINITION. The commands of the BPD, one constructor per row of spec/opcode_table.json. A command carries no operand in its
word (R90, R91). -/

namespace Sys2Proof

/-- The three commands of the opcode map (R92). -/
inductive Instr where
  /-- LOAD, command word 0x00000001 (R111). -/
  | load
  /-- COLORIZE, command word 0x00000002 (R170). -/
  | colorize
  /-- DISPOSE, command word 0x00000003 (R114). -/
  | dispose
  deriving DecidableEq, Repr

end Sys2Proof
end

