-- ==== Sys2Proof/Decode.lean ====
section
/-! DEFINITION. The command word CMD32 (R90), its decoder, total on every word and rejecting by name (R92, R93), and the encoder
written from the same map. -/

namespace Sys2Proof

/-- What the decoder answers for a command word. -/
inductive Decoded where
  /-- The word selects a command (R92). -/
  | command (i : Instr)
  /-- RSV is not 0 (R93). -/
  | reservedBits (rsv : BitVec 24)
  /-- RSV is 0 and OPC is none of 0x01, 0x02, 0x03 (R93). -/
  | reservedOpcode (opc : Byte)
  deriving DecidableEq, Repr

/-- Field OPC, bits [7:0] (R90). -/
def opcField (w : Word) : Byte := w.extractLsb' 0 8

/-- Field RSV, bits [31:8] (R90). -/
def rsvField (w : Word) : BitVec 24 := w.extractLsb' 8 24

/-- The decoder of the opcode map (R92): a word selects a command only when it equals that command's word exactly. -/
def decodeWord (w : Word) : Decoded :=
  if rsvField w ≠ 0#24 then .reservedBits (rsvField w)
  else if opcField w = 0x01#8 then .command .load
  else if opcField w = 0x02#8 then .command .colorize
  else if opcField w = 0x03#8 then .command .dispose
  else .reservedOpcode (opcField w)

/-- The opcode OPC of each command (R92). -/
def opcode : Instr → Byte
  | .load => 0x01#8
  | .colorize => 0x02#8
  | .dispose => 0x03#8

/-- The command word of each command: OPC in bits [7:0], RSV = 0 (R90, R92). -/
def encode (i : Instr) : Word := 0#24 ++ opcode i

/-- The command word whose bits are w, numbered as spec/opcode_table.json numbers them, the bits above nbits being 0. A command is
one 32-bit word (R94), so bits above 31 make it no command word. -/
def tableWord (nbits w : Nat) : Option Word :=
  if w % 2 ^ nbits < 2 ^ 32 then some (BitVec.ofNat 32 (w % 2 ^ nbits)) else none

/-- The command the decoder reads from an instruction of the opcode table whose bits are w. -/
def decodeTableWord (nbits w : Nat) : Option Instr :=
  match tableWord nbits w with
  | none => none
  | some v =>
    match decodeWord v with
    | .command i => some i
    | .reservedBits _ => none
    | .reservedOpcode _ => none

end Sys2Proof
end

