-- ==== Sys2Proof/Config.lean ====
section
/-! DEFINITION. What an implementation fixes: the source's constants (R6), the open parameters (R7), and the free values, which
are opaque constants with no body, so that nothing can be proved of them. -/

namespace Sys2Proof.Config

/-- NPLANES, the plane depth D (R6, R10). -/
@[simp] abbrev nPlanes : Nat := 6
/-- NPAL, the number of palette entries (R6). -/
@[simp] abbrev nPal : Nat := 64
/-- PAL_BYTES, the engine's palette buffer (R6). -/
@[simp] abbrev palBytes : Nat := 192
/-- NROT, the number of rotation entries (R6). -/
@[simp] abbrev nRot : Nat := 8
/-- ROT_BYTES, the engine's rotation buffer (R6). -/
@[simp] abbrev rotBytes : Nat := 24
/-- ALPHA, the palette's opacity (R6). -/
@[simp] abbrev alpha : Byte := 0xFF#8
/-- SRC4_COLORS, the colour count that selects the 4-bit source format (R6, R110). -/
@[simp] abbrev src4Colors : Word := 16#32
/-- The packer's initial mask (R6). -/
@[simp] abbrev packInitialMask : Byte := 0b00000001#8
/-- The packer's wrap mask (R6). -/
@[simp] abbrev packWrapMask : Byte := 0b10000000#8

/-- The open parameters of R7 that the machine holds as constant registers (R41, R42). -/
structure Params where
  /-- MAX_PIXELS: the capacity of IN and of RAW, in pixels. -/
  maxPixels : Nat
  /-- N_SUB: the number of subscriber ports. -/
  nSub : Nat
  deriving DecidableEq, Repr

/-- The parameter values that `State.reset` is given. DESIGN CHOICE, log 4: R7 leaves both open. These are the largest values
R7 admits, and no statement rests on them. -/
def params : Params := ⟨65536, 32⟩

/-- A draw: the bytes of an output-bank read in the middle of a COLORIZE (R238, S4), and a RAW byte that COPY fills from an IN
byte never written (S3). The argument is the number of draws made before it. Free value, log 11 and log 12. -/
opaque freeByte : Nat → Byte

/-- What RAW byte i holds after reset (R47, S2). Free value, log 10. -/
opaque rawPowerUp : Nat → Byte

/-- What PAL_STAGE byte i holds after reset (R48, S2). Free value, log 10. -/
opaque palStagePowerUp : Nat → Byte

/-- What ROT_STAGE byte i holds after reset (R48, S2). Free value, log 10. -/
opaque rotStagePowerUp : Nat → Byte

end Sys2Proof.Config
end

