-- ==== Sys2Proof/Machine/State.lean ====
section
/-! DEFINITION. The state of the BPD as plain data (10_state.md R20 to R50), the steps of its agents as data (R5, R95), the reasons
a step can stop, and the state after reset (R230). -/

namespace Sys2Proof.Machine

/-- A sparse memory: cells (address, value), addresses strictly rising. An address that is not listed holds no value: it has not
been written since reset (R241). `Memory Byte` is a list of `Host.Cell`. -/
abbrev Memory (α : Type) := List (Nat × α)

/-- The canonical form: addresses strictly rising. An unlisted address reads as no value, so no listed entry can equal what an
unlisted address reads as. -/
abbrev Memory.wf {α : Type} (m : Memory α) : Prop := m.Pairwise fun a b => a.1 < b.1

/-- STATUS.STATE (R24, D38). The value 3 is reserved and never read (S5, log 20). -/
inductive Lifecycle where
  | unloaded
  | loaded
  | disposed
  deriving DecidableEq, Repr

/-- The encoding of STATUS.STATE (R24). -/
def Lifecycle.code : Lifecycle → BitVec 2
  | .unloaded => 0#2
  | .loaded => 1#2
  | .disposed => 2#2

/-- The result codes of STATUS.ERR (R201). The codes 8 to 15 are reserved and never written (S6, log 20). -/
inductive ErrCode where
  | ok
  | illegalCmd
  | notLoaded
  | disposed
  | alreadyLoaded
  | loadFail
  | loadGeom
  | dim
  deriving DecidableEq, Repr

/-- The numbering of the result codes (R201). -/
def ErrCode.code : ErrCode → BitVec 4
  | .ok => 0#4
  | .illegalCmd => 1#4
  | .notLoaded => 2#4
  | .disposed => 3#4
  | .alreadyLoaded => 4#4
  | .loadFail => 5#4
  | .loadGeom => 6#4
  | .dim => 7#4

/-- PHASE, the block sequencer's position (R49). -/
inductive Phase where
  | idle
  | loadWait
  | disposeWait
  | copy
  | engineWait
  | stages
  | publish
  deriving DecidableEq, Repr

/-- An entry of the palette LUT (R43). -/
structure PaletteEntry where
  r : Byte
  g : Byte
  b : Byte
  a : Byte
  deriving DecidableEq, Repr

/-- An entry of the rotation schedule register (R44). The flag ACTIVE is derived and not stored (R64). -/
structure RotEntry where
  first : Byte
  count : Byte
  interval : Byte
  deriving DecidableEq, Repr

/-- The control registers (R22). -/
inductive Reg where
  | cmd
  | status
  | width
  | height
  | colorCount
  | pixels
  | planeLen
  | inCount
  | loadArg
  | subEnable
  | frameCount
  | paramMaxPixels
  | paramNSub
  deriving DecidableEq, Repr

/-- One step of one agent, as the host script writes it (R5, R95, R96). Offsets and widths are any numbers: what the bus rules
refuse is a bus error (R67). -/
inductive Event where
  /-- Host: `MemWrite(off, n, v)`; W32, W16 and W8 are n = 4, 2 and 1 (R95). -/
  | hostWrite (n off : Nat) (v : Word)
  /-- Host: `MemRead(off, n)`; R32, R16 and R8 are n = 4, 2 and 1 (R95). -/
  | hostRead (n off : Nat)
  /-- Subscriber i: a read of n bytes through its read port (R72). -/
  | subRead (i n off : Nat)
  /-- Subscriber i: its acknowledgement (R176). -/
  | ack (i : Nat)
  /-- Engine: its LOAD answer (ok, w, h, cc) (R112). -/
  | engLoad (ok : Bool) (w h cc : Word)
  /-- Engine: its COLORIZE answer raw', pal, rot (R173). -/
  | engColorize (raw pal rot : List Byte)
  /-- Engine: its DISPOSE answer (R115). -/
  | engDispose
  /-- Block: one step of the block sequencer, if one is enabled (R5). -/
  | block
  /-- Block: `SEQ`, every enabled block-sequencer step, taken until none is enabled (R95). -/
  | seq
  /-- Host: `WAIT`, reads of STATUS until BUSY reads 0, the other agents' steps between the reads (R96). -/
  | wait
  /-- The reset input RST is asserted (R230). -/
  | rst
  deriving DecidableEq, Repr

/-- The answer on the bus to the last host or subscriber access. The model's own field, log 5. -/
inductive Reply where
  /-- No access has been made since reset. -/
  | none
  /-- A write was taken by the bus, with whatever effect its target gives it. -/
  | written
  /-- A read returned v, zero-extended to a word. -/
  | data (v : Word)
  /-- The transaction ended with an error response and read data 0 (R67). -/
  | busError
  deriving DecidableEq, Repr

/-- The read data of an answer; an error response carries read data 0 (R9, R67). -/
def Reply.readData : Reply → Word
  | .none => 0#32
  | .written => 0#32
  | .data v => v
  | .busError => 0#32

/-- A request outstanding on the engine port (R9, R221, D37). -/
inductive EngineRequest where
  | load (arg : Word)
  | colorize (width height : Word) (frame : List Byte)
  | dispose
  deriving DecidableEq, Repr

/-- The state of the BPD (R20), and the three fields `script`, `reply` and `draws` that are the model's own. CMD is not stored
(R23). BUSY, PUB, SRC4, PIXELS, PLANE_LEN and ACTIVE are derived (R25 to R27, R35, R36, R44). -/
structure State where
  /-- PARAM_MAX_PIXELS and PARAM_N_SUB (R41, R42): constants; no step writes them. -/
  params : Config.Params
  /-- STATUS.STATE (R24). -/
  lifecycle : Lifecycle
  /-- STATUS.ERR (R28). -/
  err : ErrCode
  /-- STATUS.ERR_STICKY (R29). -/
  errSticky : Bool
  /-- STATUS.WIGN (R30). -/
  wign : Bool
  /-- WIDTH (R32). -/
  width : Word
  /-- HEIGHT (R33). -/
  height : Word
  /-- COLOR_COUNT (R34). -/
  colorCount : Word
  /-- IN_COUNT (R37). -/
  inCount : Word
  /-- LOAD_ARG (R38). -/
  loadArg : Word
  /-- SUB_ENABLE (R39); the bits at and above N_SUB are 0. -/
  subEnable : Word
  /-- FRAME_COUNT (R40). -/
  frameCount : Word
  /-- PALETTE[0..63], keyed by entry (R43). -/
  palette : Memory PaletteEntry
  /-- ROT[0..7], keyed by entry (R44). -/
  rot : Memory RotEntry
  /-- PLANE[p][b], keyed by 0x2000 p + b, the offset inside the plane windows (R45, R65). -/
  plane : Memory Byte
  /-- IN, keyed by pixel (R46). -/
  inp : Memory Byte
  /-- RAW, keyed by pixel (R47). -/
  raw : Memory Byte
  /-- PAL_STAGE, keyed by byte (R48). -/
  palStage : Memory Byte
  /-- ROT_STAGE, keyed by byte (R48). -/
  rotStage : Memory Byte
  /-- PHASE (R49). -/
  phase : Phase
  /-- PEND (R50); the bits at and above N_SUB are 0. -/
  pend : Word
  /-- The agents' steps still to come, the next one first (R95). The model's own field, log 1. -/
  script : List Event
  /-- The answer to the last bus access. The model's own field, log 5. -/
  reply : Reply
  /-- How many free values have been drawn. The model's own field, log 12. -/
  draws : Nat
  deriving DecidableEq, Repr

/-- Why the machine stops. -/
inductive Fault where
  /-- Raised by a host or subscriber read of a PALETTE, ROT, PLANE (below L) or IN byte that has not been written since reset:
  the model faults there (R241, S1). Safe: a claim about such a read becomes unprovable. Log 9. Not raised by a read of the output
  bank in COPY, ENGINE_WAIT or STAGES, log 24. -/
  | unwrittenRead (off : Nat)
  deriving DecidableEq, Repr

/-- What has no meaning. -/
inductive Refusal where
  /-- Raised by an arm of exec for an instruction with no meaning yet; no arm of this model raises it. Safe. -/
  | notModelled (mnemonic : String)
  /-- Raised by a read at subscriber port i, when i is not below N_SUB: there is no such port (R7, R221). Safe. Log 8. -/
  | noSubscriberPort (i : Nat)
  /-- Raised by an engine COLORIZE answer whose arrays are not raw'[0..N), pal[0..191] and rot[0..23] (R173). Safe. Log 8. -/
  | malformedEngineAnswer
  deriving DecidableEq, Repr

/-- The state after reset for the parameters p (R230): every register at its reset value, nothing written in any RAM (R241). -/
def State.resetWith (p : Config.Params) : State where
  params := p
  lifecycle := .unloaded
  err := .ok
  errSticky := false
  wign := false
  width := 0#32
  height := 0#32
  colorCount := 0#32
  inCount := 0#32
  loadArg := 0#32
  subEnable := 0#32
  frameCount := 0#32
  palette := []
  rot := []
  plane := []
  inp := []
  raw := []
  palStage := []
  rotStage := []
  phase := .idle
  pend := 0#32
  script := []
  reply := .none
  draws := 0

/-- The machine right after reset (R230), with the parameter values of log 4. -/
def State.reset : State := State.resetWith Config.params

end Sys2Proof.Machine
end

