-- ==== Sys2Proof/Machine/Ops.lean ====
section
/-! DEFINITION. The operations every meaning shares: one memory, read and written by runs of cells; little-endian words (R62);
the error entry (R212); the write dropped while busy (R236, R237); the answer on the bus. -/

namespace Sys2Proof.Machine

/-! ### Memory -/

/-- The value at an address; none where nothing has been written since reset (R241). -/
def Memory.read {α : Type} : Memory α → Nat → Option α
  | [], _ => none
  | (k, v) :: m, a => if k = a then some v else Memory.read m a

/-- The cells of a run of values from an address upwards. -/
def Memory.cells {α : Type} : Nat → List α → Memory α
  | _, [] => []
  | a, v :: vs => (a, v) :: Memory.cells (a + 1) vs

/-- Write a run of values from an address upwards. The canonical form is kept. -/
def Memory.writeRange {α : Type} (m : Memory α) (a : Nat) (vs : List α) : Memory α :=
  m.filter (fun c => c.1 < a) ++ Memory.cells a vs ++ m.filter (fun c => a + vs.length ≤ c.1)

/-- Write one value. -/
def Memory.write {α : Type} (m : Memory α) (a : Nat) (v : α) : Memory α := m.writeRange a [v]

/-! ### Byte order: little-endian and fixed (R62) -/

/-- The n low bytes of a word, the least significant first: byte k is bits [8k+7 : 8k]. -/
def leBytes (n : Nat) (v : Word) : List Byte := (List.range n).map fun k => v.extractLsb' (8 * k) 8

/-- The word whose bytes are bs, the least significant first, zero-extended. -/
def leWord : List Byte → Word
  | [] => 0#32
  | b :: bs => (leWord bs <<< 8) ||| b.setWidth 32

/-! ### Commands -/

/-- STATUS.BUSY, bit 2: PHASE is not IDLE (R25, R49). -/
def State.busy (s : State) : Bool := decide (s.phase ≠ .idle)

/-- `raise Err(code)`, the error entry (R212): ERR, ERR_STICKY and PHASE, and nothing else. There is no vector, no saved program
counter and no change of mode. -/
def State.raiseErr (s : State) (c : ErrCode) : State :=
  { s with err := c, errSticky := true, phase := .idle }

/-- There is no return-from-error operation (R214): a successful command's completion writes ERR with 0, leaves ERR_STICKY, and
leaves PHASE IDLE (R113, R114, R115, R177). -/
def State.complete (s : State) : State := { s with err := .ok, phase := .idle }

/-- A host write to a writable target while BUSY = 1 is dropped and sets WIGN; it changes nothing else (R236, R237). -/
def State.dropWrite (s : State) : State := { s with wign := true }

/-- A host write to a writable target: dropped while busy, else its effect f (R236, R237). -/
def State.whenIdle (s : State) (f : State → State) : State := if s.busy then s.dropWrite else f s

/-- The bus answers the access. -/
def State.answer (s : State) (r : Reply) : State := { s with reply := r }

end Sys2Proof.Machine
end

