-- ==== Sys2Proof/Machine/Flags.lean ====
section
/-! DEFINITION. The STATUS register: its derived bits (R25 to R27), the whole word (R31) and the write-1-to-clear bits (R29, R30). -/

namespace Sys2Proof.Machine

/-- STATUS.PUB, bit 3, and the output PUB_VALID of every subscriber port: PHASE is PUBLISH (R26, R49). -/
def State.pub (s : State) : Bool := decide (s.phase = .publish)

/-- STATUS.SRC4, bit 4: COLOR_COUNT is 16, compared over 32 bits (R27, R110). -/
def State.src4 (s : State) : Bool := decide (s.colorCount = Config.src4Colors)

/-- The whole STATUS word (R31). -/
def State.status (s : State) : Word :=
  0#14 ++ BitVec.ofBool s.wign ++ BitVec.ofBool s.errSticky ++ 0#4 ++ s.err.code ++ 0#3 ++ BitVec.ofBool s.src4
    ++ BitVec.ofBool s.pub ++ BitVec.ofBool s.busy ++ s.lifecycle.code

/-- A host write to STATUS: bit 16 clears ERR_STICKY, bit 17 clears WIGN, a 0 leaves the bit, every other bit is ignored
(R29, R30, R31). Honoured while BUSY = 1 (R237). -/
def State.clearW1c (s : State) (v : Word) : State :=
  { s with errSticky := s.errSticky && !v.getLsbD 16, wign := s.wign && !v.getLsbD 17 }

end Sys2Proof.Machine
end

