-- ==== Sys2Proof/Machine/Operands.lean ====
section
/-! DEFINITION. What the commands and the bus take their operands from: the derived registers PIXELS and PLANE_LEN (R35, R36), the
subscriber mask (R39), the hidden byte arrays (R47, R48), the engine port's outstanding request (R9, R117), the register map (R22)
and the aperture map (R61). -/

namespace Sys2Proof.Machine

/-! ### Derived registers -/

/-- PIXELS, the product WIDTH × HEIGHT in 32 bits (R35). Where WIDTH × HEIGHT ≤ MAX_PIXELS ≤ 65536 it is the exact product,
log 15. -/
def State.pixels (s : State) : Word := s.width * s.height

/-- N, the pixel count of a frame (R11). -/
def State.numPixels (s : State) : Nat := s.pixels.toNat

/-- PLANE_LEN = PIXELS >> 3 (R36). -/
def State.planeLenReg (s : State) : Word := s.pixels >>> 3

/-- L = floor(N / 8), the plane length in bytes (R11, R36). -/
def State.planeLen (s : State) : Nat := s.numPixels / 8

/-- The bits [N_SUB−1:0] of a subscriber mask (R39, R50). -/
def subMask (n : Nat) : Word := BitVec.ofNat 32 (2 ^ n - 1)

/-! ### Hidden byte arrays -/

/-- RAW[i]; a free value where neither COPY nor the engine has written it since reset (R47, S2, log 10). -/
def State.rawByte (s : State) (i : Nat) : Byte := (s.raw.read i).getD (Config.rawPowerUp i)

/-- RAW[0..N). -/
def State.rawFrame (s : State) : List Byte := (List.range s.numPixels).map s.rawByte

/-- PAL_STAGE[i]; a free value where the engine has not written it since reset (R48, S2, log 10). -/
def State.palStageByte (s : State) (i : Nat) : Byte := (s.palStage.read i).getD (Config.palStagePowerUp i)

/-- ROT_STAGE[i]; a free value where the engine has not written it since reset (R48, S2, log 10). -/
def State.rotStageByte (s : State) (i : Nat) : Byte := (s.rotStage.read i).getD (Config.rotStagePowerUp i)

/-! ### The engine port -/

/-- The request outstanding on the engine port: LOAD carries LOAD_ARG (R111), COLORIZE carries WIDTH, HEIGHT and RAW[0..N) (R172),
DISPOSE carries nothing (R114, D37). At most one is outstanding (R117). Its operands cannot change while it is (R91), log 16. -/
def State.engineRequest (s : State) : Option EngineRequest :=
  match s.phase with
  | .idle => none
  | .loadWait => some (.load s.loadArg)
  | .disposeWait => some .dispose
  | .copy => none
  | .engineWait => some (.colorize s.width s.height s.rawFrame)
  | .stages => none
  | .publish => none

/-! ### The register map (R22) -/

/-- The register at an offset; none at the reserved offsets (R22, R68). -/
def Reg.at? (off : Nat) : Option Reg :=
  match off with
  | 0x00 => some .cmd
  | 0x04 => some .status
  | 0x08 => some .width
  | 0x0C => some .height
  | 0x10 => some .colorCount
  | 0x14 => some .pixels
  | 0x18 => some .planeLen
  | 0x1C => some .inCount
  | 0x20 => some .loadArg
  | 0x24 => some .subEnable
  | 0x28 => some .frameCount
  | 0x2C => some .paramMaxPixels
  | 0x30 => some .paramNSub
  | _ => none

/-- The offset of a register (R22). -/
def Reg.offset : Reg → Nat
  | .cmd => 0x00
  | .status => 0x04
  | .width => 0x08
  | .height => 0x0C
  | .colorCount => 0x10
  | .pixels => 0x14
  | .planeLen => 0x18
  | .inCount => 0x1C
  | .loadArg => 0x20
  | .subEnable => 0x24
  | .frameCount => 0x28
  | .paramMaxPixels => 0x2C
  | .paramNSub => 0x30

/-- What a register reads as (R22 to R42). CMD reads 0 (R23). -/
def State.readReg (s : State) : Reg → Word
  | .cmd => 0#32
  | .status => s.status
  | .width => s.width
  | .height => s.height
  | .colorCount => s.colorCount
  | .pixels => s.pixels
  | .planeLen => s.planeLenReg
  | .inCount => s.inCount
  | .loadArg => s.loadArg
  | .subEnable => s.subEnable
  | .frameCount => s.frameCount
  | .paramMaxPixels => BitVec.ofNat 32 s.params.maxPixels
  | .paramNSub => BitVec.ofNat 32 s.params.nSub

/-! ### The aperture map (R61) -/

/-- The key of PLANE[p][b] in the plane bank: its offset inside the plane windows (R65). -/
def planeKey (p b : Nat) : Nat := 0x2000 * p + b

/-- The target of one byte of the windows (R61). -/
inductive Target where
  /-- Byte k of PALETTE[i] (R63). -/
  | palette (i k : Nat)
  /-- Byte k of ROT[j] (R64). -/
  | rot (j k : Nat)
  /-- IN[i], or an offset above IN (R66). -/
  | input (i : Nat)
  /-- PLANE[p][b], or an offset above the plane (R65). -/
  | plane (p b : Nat)
  /-- A reserved offset, RAZ/WI (R68). -/
  | reserved
  deriving DecidableEq, Repr

/-- The aperture map of the windows, 0x01000 and above (R61). -/
def targetAt (off : Nat) : Target :=
  if 0x01000 ≤ off ∧ off < 0x01100 then .palette ((off - 0x01000) / 4) ((off - 0x01000) % 4)
  else if 0x01100 ≤ off ∧ off < 0x01120 then .rot ((off - 0x01100) / 4) ((off - 0x01100) % 4)
  else if 0x10000 ≤ off ∧ off < 0x20000 then .input (off - 0x10000)
  else if 0x20000 ≤ off ∧ off < 0x2C000 then .plane ((off - 0x20000) / 0x2000) ((off - 0x20000) % 0x2000)
  else .reserved

/-- The bus rules for an access of n bytes (R67): registers and reserved register offsets take aligned 32-bit accesses only, windows
and reserved window offsets take aligned accesses of 1, 2 or 4 bytes, and any other access is a bus error. -/
def accessOk (n off : Nat) : Bool :=
  if off < 0x01000 then decide (n = 4 ∧ off % 4 = 0)
  else decide (off < 0x40000 ∧ (n = 1 ∨ n = 2 ∨ n = 4) ∧ off % n = 0)

/-- Byte k of a palette entry: R, G, B, A (R63). -/
def PaletteEntry.byte (e : PaletteEntry) (k : Nat) : Byte :=
  if k = 0 then e.r else if k = 1 then e.g else if k = 2 then e.b else e.a

/-- ACTIVE = (count ≠ 0) (R44, R161). -/
def RotEntry.active (e : RotEntry) : Bool := decide (e.count ≠ 0#8)

/-- Byte k of a rotation entry: first, count, interval, and the flags byte, whose bit 0 is ACTIVE and whose other bits are 0 (R64). -/
def RotEntry.byte (e : RotEntry) (k : Nat) : Byte :=
  if k = 0 then e.first else if k = 1 then e.count else if k = 2 then e.interval
  else 0#7 ++ BitVec.ofBool e.active

/-- What one byte of a window gives a read. -/
inductive ByteRead where
  /-- A value. -/
  | value (b : Byte)
  /-- Nothing has been written there since reset (R241). -/
  | unwritten
  /-- An unspecified value, answered with a draw (R238). -/
  | unspecified
  deriving DecidableEq, Repr

/-- A stored byte, or none written since reset (R241). -/
def ByteRead.ofStored : Option Byte → ByteRead
  | some b => .value b
  | none => .unwritten

/-- PHASE is COPY, ENGINE_WAIT or STAGES: a read of the output bank is unspecified (R238). -/
def State.bankUnspecified (s : State) : Bool :=
  match s.phase with
  | .idle => false
  | .loadWait => false
  | .disposeWait => false
  | .copy => true
  | .engineWait => true
  | .stages => true
  | .publish => false

/-- A byte of the output bank: unspecified in the middle of a COLORIZE (R238), else as stored. DESIGN CHOICE, log 24: so is a byte
not written since reset, where R238 asks for a draw and R241 for a fault and no rule says which comes first. -/
def State.bankByte (s : State) (b : Option Byte) : ByteRead :=
  if s.bankUnspecified then .unspecified else .ofStored b

/-- What one byte of the windows reads as (R63 to R66, R68). At L ≤ b the plane windows read 0 (R65, log 13). -/
def State.readTarget (s : State) : Target → ByteRead
  | .palette i k => s.bankByte ((s.palette.read i).map fun e => e.byte k)
  | .rot j k => s.bankByte ((s.rot.read j).map fun e => e.byte k)
  | .input i => if i < s.params.maxPixels then .ofStored (s.inp.read i) else .value 0#8
  | .plane p b => if b < s.planeLen then s.bankByte (s.plane.read (planeKey p b)) else .value 0#8
  | .reserved => .value 0#8

/-- A byte read made definite: byte number d of the draws where it is unspecified, no byte where nothing is written. -/
def ByteRead.resolve (d : Nat) : ByteRead → Option Byte
  | .value b => some b
  | .unwritten => none
  | .unspecified => some (Config.freeByte d)

/-- The bytes of an access, each unspecified one a draw of its own, the first of them number d; none if one is not written. -/
def resolveAll : Nat → List ByteRead → Option (List Byte)
  | _, [] => some []
  | d, r :: rs =>
    match r.resolve d, resolveAll (d + 1) rs with
    | some b, some bs => some (b :: bs)
    | _, _ => none

/-- What the n bytes of an access at off read as, byte off first (R62). -/
def State.readWindow (s : State) (n off : Nat) : List ByteRead :=
  (List.range n).map fun k => s.readTarget (targetAt (off + k))

end Sys2Proof.Machine
end

