-- ==== Sys2Proof/Machine/EngineBinding.lean ====
section
/-! DEFINITION. The engine binding (40_engine_binding.md): LOAD and DISPOSE at their acceptance, and the engine's answers that
complete them. -/

namespace Sys2Proof.Machine

/-- **LOAD**, acceptance (R111). E_DISPOSED before E_ALREADY_LOADED (R211). The engine request that LOAD_WAIT makes carries LOAD_ARG
(`State.engineRequest`). On a busy block the CMD write is dropped (R236, log 14). -/
def execLoad (s : State) : Host.Outcome State Fault Refusal :=
  .next (s.whenIdle fun s =>
    match s.lifecycle with
    | .disposed => s.raiseErr .disposed
    | .loaded => s.raiseErr .alreadyLoaded
    | .unloaded => { s with phase := .loadWait })

/-- **DISPOSE**, acceptance (R114). From UNLOADED it completes at once and asks the engine nothing (D17). On a busy block the CMD
write is dropped (R236, log 14). -/
def execDispose (s : State) : Host.Outcome State Fault Refusal :=
  .next (s.whenIdle fun s =>
    match s.lifecycle with
    | .disposed => s.raiseErr .disposed
    | .unloaded => { s.complete with lifecycle := .disposed }
    | .loaded => { s with phase := .disposeWait })

/-- The geometry LOAD accepts (R113, D13): w and h signed, at least 1, their exact product at most MAX_PIXELS. -/
def State.geometryOk (s : State) (w h : Word) : Bool :=
  decide (1 ≤ w.toInt ∧ 1 ≤ h.toInt ∧ w.toInt * h.toInt ≤ s.params.maxPixels)

/-- The engine's LOAD answer and the completion of LOAD, one step (R112, R113). Where no LOAD request is outstanding no answer step
is enabled, and a late answer is ignored (R231). -/
def engineLoadAnswer (ok : Bool) (w h cc : Word) (s : State) : State :=
  if s.phase ≠ .loadWait then s
  else if !ok then s.raiseErr .loadFail
  else if !s.geometryOk w h then s.raiseErr .loadGeom
  else { s.complete with width := w, height := h, colorCount := cc, lifecycle := .loaded }

/-- The engine's DISPOSE answer and the completion of DISPOSE, one step (R115). A late answer is ignored (R231). -/
def engineDisposeAnswer (s : State) : State :=
  if s.phase ≠ .disposeWait then s else { s.complete with lifecycle := .disposed }

end Sys2Proof.Machine
end

