-- ==== Sys2Proof/Machine/Packer.lean ====
section
/-! DEFINITION. The plane packer, the PACK stage (41_plane_packer.md): the zeroing of R131 and the loop of R132 as they stand there,
and the closed form of R133 that the loop is stated to equal. -/

namespace Sys2Proof.Machine

/-- The loop variables of R132: the rolling mask, the output-byte index, and the plane bank written so far. -/
structure PackLoop where
  mask : Byte
  idx : Nat
  plane : Memory Byte
  deriving DecidableEq, Repr

/-- The planes in the order the loop visits them (R132). -/
def planeIndices : List Nat := List.range Config.nPlanes

/-- `PLANE[k][idx] <- PLANE[k][idx] | mask` (R132). Below L the byte holds a value since R131. -/
def orPlaneByte (m : Memory Byte) (k idx : Nat) (mask : Byte) : Memory Byte :=
  m.write (planeKey k idx) ((m.read (planeKey k idx)).getD 0#8 ||| mask)

/-- One plane of one pixel v: its bit k is ORed in where it is 1 and idx is below L (R132, R135). -/
def packBit (len : Nat) (v mask : Byte) (idx : Nat) (m : Memory Byte) (k : Nat) : Memory Byte :=
  if v.getLsbD k = true ∧ idx < len then orPlaneByte m k idx mask else m

/-- One pixel v: its six planes, then the mask moves up one bit, or wraps and the index moves on (R132). -/
def packPixel (len : Nat) (st : PackLoop) (v : Byte) : PackLoop :=
  let plane := planeIndices.foldl (packBit len v st.mask st.idx) st.plane
  if st.mask = Config.packWrapMask then ⟨Config.packInitialMask, st.idx + 1, plane⟩
  else ⟨st.mask <<< 1, st.idx, plane⟩

/-- The up-front zeroing of the L bytes of each plane (R131). -/
def packZero (len : Nat) (m : Memory Byte) : Memory Byte :=
  planeIndices.foldl (fun m p => m.writeRange (planeKey p 0) (List.replicate len 0#8)) m

/-- The plane bank after PACK of a frame with planes of len bytes (R131, R132). -/
def packFrame (len : Nat) (frame : List Byte) (m : Memory Byte) : Memory Byte :=
  (frame.foldl (packPixel len) ⟨Config.packInitialMask, 0, packZero len m⟩).plane

/-- **PACK** (R130): reads RAW[0..N), writes PLANE[p][b] for p in 0..5 and b < L, and no other state. -/
def pack (s : State) : State := { s with plane := packFrame s.planeLen s.rawFrame s.plane }

/-- The closed form of R133: the sum over j in 0..7 of bit p of pixel 8b + j, shifted left by j. -/
def packedByte (pixel : Nat → Byte) (p b : Nat) : Byte :=
  BitVec.ofNat 8 (((List.range 8).map fun j => ((pixel (8 * b + j)).getLsbD p).toNat <<< j).sum)

end Sys2Proof.Machine
end

