-- ==== Sys2Proof/Machine/Palette.lean ====
section
/-! DEFINITION. The palette marshaller, the MARSHAL stage (42_palette_marshaller.md). -/

namespace Sys2Proof.Machine

/-- The palette entry of the i-th RGB triple: copied verbatim, the opacity 0xFF (R150, R151). -/
def State.marshalEntry (s : State) (i : Nat) : PaletteEntry where
  r := s.palStageByte (3 * i + 0)
  g := s.palStageByte (3 * i + 1)
  b := s.palStageByte (3 * i + 2)
  a := Config.alpha

/-- **MARSHAL** (R150): all 64 entries of PALETTE, and no other state. -/
def marshal (s : State) : State :=
  { s with palette := s.palette.writeRange 0 ((List.range Config.nPal).map s.marshalEntry) }

end Sys2Proof.Machine
end

