-- ==== Sys2Proof/Machine/Rotation.lean ====
section
/-! DEFINITION. The rotation schedule builder, the ROTBUILD stage (43_rotation_schedule.md). -/

namespace Sys2Proof.Machine

/-- The rotation entry of the j-th triple: copied verbatim, an inactive one too (R160 to R162). -/
def State.rotEntry (s : State) (j : Nat) : RotEntry where
  first := s.rotStageByte (3 * j + 0)
  count := s.rotStageByte (3 * j + 1)
  interval := s.rotStageByte (3 * j + 2)

/-- **ROTBUILD** (R160): all 8 entries of ROT, and no other state. -/
def rotBuild (s : State) : State :=
  { s with rot := s.rot.writeRange 0 ((List.range Config.nRot).map s.rotEntry) }

end Sys2Proof.Machine
end

