-- ==== Sys2Proof/Machine/Orchestrator.lean ====
section
/-! DEFINITION. The colorize orchestrator (44_orchestrator.md): COLORIZE at its acceptance and the steps it goes through until its
completion. -/

namespace Sys2Proof.Machine

/-- **COLORIZE**, acceptance (R171). E_DISPOSED, then E_NOT_LOADED, then E_DIM by a 32-bit unsigned compare (R211). On a busy block
the CMD write is dropped (R236, log 14). -/
def execColorize (s : State) : Host.Outcome State Fault Refusal :=
  .next (s.whenIdle fun s =>
    match s.lifecycle with
    | .disposed => s.raiseErr .disposed
    | .unloaded => s.raiseErr .notLoaded
    | .loaded => if s.inCount ≠ s.pixels then s.raiseErr .dim else { s with phase := .copy })

/-- The frame COPY copies: IN[0..N), with a draw for a byte of IN that has not been written since reset (S3, log 11). -/
def State.copiedFrame (s : State) : List Byte :=
  (List.range s.numPixels).map fun i => (s.inp.read i).getD (Config.freeByte (s.draws + i))

/-- **COPY** (R172), a block step: RAW[0..N) from IN, then the COLORIZE request of ENGINE_WAIT (`State.engineRequest`). -/
def copyStep (s : State) : State :=
  { s with raw := s.raw.writeRange 0 s.copiedFrame, phase := .engineWait, draws := s.draws + s.numPixels }

/-- The engine's COLORIZE answer (R173): RAW[0..N), PAL_STAGE and ROT_STAGE. Where no COLORIZE request is outstanding a late answer
is ignored (R231). An answer whose arrays have other lengths is no answer of R173, log 8. -/
def engineColorizeAnswer (raw pal rot : List Byte) (s : State) : Host.Outcome State Fault Refusal :=
  if s.phase ≠ .engineWait then .next s
  else if raw.length = s.numPixels ∧ pal.length = Config.palBytes ∧ rot.length = Config.rotBytes then
    .next { s with raw := s.raw.writeRange 0 raw, palStage := s.palStage.writeRange 0 pal,
                   rotStage := s.rotStage.writeRange 0 rot, phase := .stages }
  else .refused .malformedEngineAnswer

/-- Publish start (R175): the current subscribers are latched, PUB_VALID becomes 1. -/
def publishStart (s : State) : State :=
  { s with pend := s.subEnable &&& subMask s.params.nSub, phase := .publish }

/-- **STAGES** (R174), a block step: MARSHAL, ROTBUILD, PACK, then publish start. -/
def stagesStep (s : State) : State := publishStart (pack (rotBuild (marshal s)))

/-- Subscriber i's acknowledgement (R176): it clears PEND[i] during PUBLISH. Where PEND[i] is not 1 it is ignored. -/
def acknowledge (i : Nat) (s : State) : State :=
  if s.phase = .publish ∧ s.pend.getLsbD i = true then { s with pend := s.pend &&& ~~~(1#32 <<< i) } else s

/-- Completion (R177), a block step. -/
def completeStep (s : State) : State := { s.complete with frameCount := s.frameCount + 1#32 }

/-- A step of the block sequencer is enabled (R170). -/
def State.blockEnabled (s : State) : Bool :=
  match s.phase with
  | .idle => false
  | .loadWait => false
  | .disposeWait => false
  | .copy => true
  | .engineWait => false
  | .stages => true
  | .publish => decide (s.pend = 0#32)

/-- The one step of the block sequencer that is enabled (R170); none is enabled in IDLE (R224), and none leaves a phase that waits
for a peer (R242): the state stays as it is. -/
def blockStep (s : State) : State :=
  match s.phase with
  | .idle => s
  | .loadWait => s
  | .disposeWait => s
  | .copy => copyStep s
  | .engineWait => s
  | .stages => stagesStep s
  | .publish => if s.pend = 0#32 then completeStep s else s

end Sys2Proof.Machine
end

