-- ==== Sys2Proof/Machine/Dispatch.lean ====
section
/-! DEFINITION. One arm per command (R92): the meaning of an accepted CMD write. -/

namespace Sys2Proof.Machine

def exec (i : Instr) (s : State) : Host.Outcome State Fault Refusal :=
  match i with
  | .load => Sys2Proof.Machine.execLoad s
  | .colorize => Sys2Proof.Machine.execColorize s
  | .dispose => Sys2Proof.Machine.execDispose s

end Sys2Proof.Machine
end

