-- ==== Sys2Proof/Machine/Bus.lean ====
section
/-! DEFINITION. The host port and the subscriber read ports (20_memory.md): the effect and the answer of every access. -/

namespace Sys2Proof.Machine

/-- A host write to CMD (R23): dropped while busy, before it is decoded (R211, R236); else the command the word selects, or
E_ILLEGAL_CMD (R93, R202). -/
def submitCommand (w : Word) (s : State) : Host.Outcome State Fault Refusal :=
  if s.busy then .next s.dropWrite
  else
    match decodeWord w with
    | .command i => exec i s
    | .reservedBits _ => .next (s.raiseErr .illegalCmd)
    | .reservedOpcode _ => .next (s.raiseErr .illegalCmd)

/-- A host write to a register (R22, R70): CMD, STATUS and the three read-write registers; the others ignore it, without setting
WIGN (R69, R237). SUB_ENABLE stores the bits below N_SUB (R39). -/
def writeReg (r : Reg) (v : Word) (s : State) : Host.Outcome State Fault Refusal :=
  match r with
  | .cmd => submitCommand v s
  | .status => .next (s.clearW1c v)
  | .inCount => .next (s.whenIdle fun s => { s with inCount := v })
  | .loadArg => .next (s.whenIdle fun s => { s with loadArg := v })
  | .subEnable => .next (s.whenIdle fun s => { s with subEnable := v &&& subMask s.params.nSub })
  | .width => .next s
  | .height => .next s
  | .colorCount => .next s
  | .pixels => .next s
  | .planeLen => .next s
  | .frameCount => .next s
  | .paramMaxPixels => .next s
  | .paramNSub => .next s

/-- A host write of bytes at IN[i] and up (R66): the bytes below MAX_PIXELS are stored, or dropped while busy (R237); those at and
above MAX_PIXELS are ignored and do not set WIGN. -/
def writeInput (i : Nat) (bs : List Byte) (s : State) : State :=
  if i < s.params.maxPixels then
    s.whenIdle fun s => { s with inp := s.inp.writeRange i (bs.take (s.params.maxPixels - i)) }
  else s

/-- A host write to a window (R61): only IN is writable; PALETTE, ROT, PLANE and reserved offsets ignore it (R68, R69). -/
def writeWindow (n off : Nat) (v : Word) (s : State) : State :=
  match targetAt off with
  | .input i => writeInput i (leBytes n v) s
  | .palette _ _ => s
  | .rot _ _ => s
  | .plane _ _ => s
  | .reserved => s

/-- `MemWrite(off, n, v)` (R67). A bus error changes no state. -/
def hostWrite (n off : Nat) (v : Word) (s : State) : Host.Outcome State Fault Refusal :=
  if accessOk n off = false then .next (s.answer .busError)
  else if off < 0x01000 then
    match Reg.at? off with
    | some r => writeReg r v (s.answer .written)
    | none => .next (s.answer .written)
  else .next (writeWindow n off v (s.answer .written))

/-- A read of n bytes of the windows: the bytes in little-endian order (R62). A byte that has not been written since reset faults
(R241). A byte of the output bank read in the middle of a COLORIZE is a draw, a new one at every such read (R238), written or not
(log 24). -/
def readWindowAnswer (n off : Nat) (s : State) : Host.Outcome State Fault Refusal :=
  match resolveAll s.draws (s.readWindow n off) with
  | none => .fault (.unwrittenRead off)
  | some bs =>
    .next { s with reply := .data (leWord bs),
                   draws := if ByteRead.unspecified ∈ s.readWindow n off then s.draws + n else s.draws }

/-- What a read of the register space gives: the register, or 0 at a reserved offset (R22, R68). -/
def State.readRegAt (s : State) (off : Nat) : Word :=
  match Reg.at? off with
  | some r => s.readReg r
  | none => 0#32

/-- `MemRead(off, n)` (R67). -/
def hostRead (n off : Nat) (s : State) : Host.Outcome State Fault Refusal :=
  if accessOk n off = false then .next (s.answer .busError)
  else if off < 0x01000 then .next (s.answer (.data (s.readRegAt off)))
  else readWindowAnswer n off s

/-- The offsets of the subscribers' view: PALETTE, ROT and PLANE (R60, R72). -/
def inSubscriberView (off : Nat) : Bool :=
  decide ((0x01000 ≤ off ∧ off < 0x01120) ∨ (0x20000 ≤ off ∧ off < 0x2C000))

/-- A read by subscriber i (R72): the same bytes as the host, by the same bus rules (R67, R210). Any other access is a bus error,
one at an offset outside its view too (log 7). There are N_SUB ports (log 8). -/
def subscriberRead (i n off : Nat) (s : State) : Host.Outcome State Fault Refusal :=
  if s.params.nSub ≤ i then .refused (.noSubscriberPort i)
  else if (inSubscriberView off && accessOk n off) = false then .next (s.answer .busError)
  else readWindowAnswer n off s

end Sys2Proof.Machine
end

