-- ==== Sys2Proof/Machine/Script.lean ====
section
/-! DEFINITION. The pseudo-steps of the host script and their expansions (30_encoding.md R95, R96). -/

namespace Sys2Proof.Machine

/-- `W32 off, val` (R95). -/
def Event.w32 (off : Nat) (v : Word) : Event := .hostWrite 4 off v

/-- `W32 CMD, w`: a command word is submitted. -/
def Event.cmdWord (w : Word) : Event := .w32 Reg.cmd.offset w

/-- `CMD LOAD`, `CMD COLORIZE`, `CMD DISPOSE` (R96). -/
def Event.cmd (i : Instr) : Event := .cmdWord (encode i)

/-- `CLRERR`: clears ERR_STICKY and WIGN (R96, R214). -/
def Event.clrErr : Event := .w32 Reg.status.offset 0x00030000#32

/-- `FILL IN` from IN+i upwards, one W8 a byte (R96). -/
def fillFrom : Nat → List Byte → List Event
  | _, [] => []
  | i, b :: bs => .hostWrite 1 (0x10000 + i) (b.setWidth 32) :: fillFrom (i + 1) bs

/-- `FILL IN, [b0 b1 … bk]` (R96). -/
def fill (bs : List Byte) : List Event := fillFrom 0 bs

/-- The state whose next step is e, in front of the steps to come. -/
def State.withNext (s : State) (e : Event) : State := { s with script := e :: s.script }

end Sys2Proof.Machine
end

