-- ==== Sys2Proof/Machine/Agents.lean ====
section
/-! DEFINITION. One step of one agent (R5), performed on a state whose script holds the steps after it. -/

namespace Sys2Proof.Machine

/-- RST (R230): every element of state goes to its reset value, a command in progress is abandoned (R231). The peers are not reset
(R232): their steps to come stay in the script. The parameters are constants and the draws already made stay made, log 17. -/
def resetStep (s : State) : State :=
  { State.resetWith s.params with script := s.script, draws := s.draws }

/-- `SEQ` (R95): while a block step is enabled, it is taken and SEQ goes on. Log 18. -/
def seqStep (s : State) : State :=
  if s.blockEnabled then { blockStep s with script := .seq :: s.script } else s

/-- The step is the host's. A host that waits takes no other step of its own until the wait ends (R75, R96). -/
def Event.isHost : Event → Bool
  | .hostWrite _ _ _ => true
  | .hostRead _ _ => true
  | .wait => true
  | .subRead _ _ _ => false
  | .ack _ => false
  | .engLoad _ _ _ _ => false
  | .engColorize _ _ _ => false
  | .engDispose => false
  | .block => false
  | .seq => false
  | .rst => false

/-- The steps to come after a `WAIT` that read BUSY = 1 (R96): where the next step of the script is another agent's, it is taken
before STATUS is read again. A later step of the host stays behind the WAIT, and so does all that stands behind that step; where
no other agent's step comes first, the block's enabled step is taken, if there is one. DESIGN CHOICE, log 18. -/
def waitAgain : List Event → List Event
  | [] => [.block, .wait]
  | e :: es => if e.isHost then .block :: .wait :: e :: es else e :: .wait :: es

/-- `WAIT` (R96): reads of STATUS until BUSY reads 0; between two reads the steps of other agents only. -/
def waitStep (s : State) : State :=
  { s with reply := .data s.status, script := if s.busy then waitAgain s.script else s.script }

/-- One step of one agent. A step that is not enabled changes nothing (R176, R231, R242). -/
def perform (e : Event) (s : State) : Host.Outcome State Fault Refusal :=
  match e with
  | .hostWrite n off v => hostWrite n off v s
  | .hostRead n off => hostRead n off s
  | .subRead i n off => subscriberRead i n off s
  | .ack i => .next (acknowledge i s)
  | .engLoad ok w h cc => .next (engineLoadAnswer ok w h cc s)
  | .engColorize raw pal rot => engineColorizeAnswer raw pal rot s
  | .engDispose => .next (engineDisposeAnswer s)
  | .block => .next (blockStep s)
  | .seq => .next (seqStep s)
  | .wait => .next (waitStep s)
  | .rst => .next (resetStep s)

end Sys2Proof.Machine
end

