-- ==== Sys2Proof/Machine/Step.lean ====
section
/-! DEFINITION. One step of the machine: the next agent step of the script. -/

namespace Sys2Proof.Machine

/-- One step: the head of the script is performed with the rest to come (R5, R95). With no agent step to come, the block sequencer
takes the step that is enabled, and where none is, nothing happens: the block waits, for ever if no peer steps (R224, R242). -/
def step (s : State) : Host.Outcome State Fault Refusal :=
  match s.script with
  | [] => .next (blockStep s)
  | e :: rest => perform e { s with script := rest }

/-- The state whose very next step is the 32-bit host write to CMD of the word whose bits are w, in front of the steps to come
(R23, R80, log 3). -/
def State.withFetchWord (s : State) (nbits w : Nat) : State :=
  s.withNext (.cmdWord (BitVec.ofNat 32 (w % 2 ^ nbits)))

end Sys2Proof.Machine
end

