-- ==== Sys2Proof/WellFormed.lean ====
section
/-! DEFINITION. What a well-formed term is. A command has no field, so every command is well formed (R90: "There is no other
field, no register specifier and no immediate"). The checks that can fail are those of the open parameters (R7). -/

namespace Sys2Proof

/-- Every command is well formed: it has no operand that could be out of range (R90, R91). -/
def Instr.wf : Instr → Bool
  | .load => true
  | .colorize => true
  | .dispose => true

namespace Config

/-- The constraints R7 puts on the parameters: 16 ≤ MAX_PIXELS ≤ 65536, MAX_PIXELS mod 8 = 0, 1 ≤ N_SUB ≤ 32. -/
abbrev Params.wf (p : Params) : Prop :=
  16 ≤ p.maxPixels ∧ p.maxPixels ≤ 65536 ∧ p.maxPixels % 8 = 0 ∧ 1 ≤ p.nSub ∧ p.nSub ≤ 32

end Config
end Sys2Proof
end

