-- ==== Sys2Proof/Safety.lean ====
section
/-! DEFINITION. What holds of every state a run reaches: the invariants of R52, the canonical form and the bounds of the memories,
and the completeness of the output bank (R77, R241). Stated over all states; every step is to keep them. -/

namespace Sys2Proof.Machine

/-- WIDTH, HEIGHT and COLOR_COUNT are 0 (R52). -/
abbrev State.bindingZero (s : State) : Prop := s.width = 0#32 ∧ s.height = 0#32 ∧ s.colorCount = 0#32

/-- 1 ≤ WIDTH, 1 ≤ HEIGHT, WIDTH × HEIGHT ≤ MAX_PIXELS, the product exact (R32, R52). -/
abbrev State.geometryLegal (s : State) : Prop :=
  1 ≤ s.width.toNat ∧ 1 ≤ s.height.toNat ∧ s.width.toNat * s.height.toNat ≤ s.params.maxPixels

/-- PHASE is one of the phases of a COLORIZE in progress. -/
abbrev State.colorizing (s : State) : Prop :=
  s.phase = .copy ∨ s.phase = .engineWait ∨ s.phase = .stages ∨ s.phase = .publish

/-- The state invariants of R52 with the parameter constraints of R7. -/
abbrev State.stateInv (s : State) : Prop :=
  s.params.wf
  ∧ (s.lifecycle = .loaded → s.geometryLegal)
  ∧ (s.lifecycle = .unloaded → s.bindingZero)
  ∧ (s.lifecycle = .disposed → s.bindingZero ∨ s.geometryLegal)
  ∧ (s.pub = true → s.busy = true)
  ∧ (s.colorizing → s.lifecycle = .loaded)
  ∧ (s.phase = .loadWait → s.lifecycle = .unloaded)
  ∧ (s.phase = .disposeWait → s.lifecycle = .loaded)

/-- Every memory is in its canonical form. -/
abbrev State.memInv (s : State) : Prop :=
  s.palette.wf ∧ s.rot.wf ∧ s.plane.wf ∧ s.inp.wf ∧ s.raw.wf ∧ s.palStage.wf ∧ s.rotStage.wf

/-- Every listed address is below n. -/
abbrev Memory.below {α : Type} (m : Memory α) (n : Nat) : Prop := ∀ c ∈ m, c.1 < n

/-- Every memory lists addresses of its own only (R43 to R48), every palette entry is opaque (R43), and the subscriber masks have no
bit at or above N_SUB (R39, R50). -/
abbrev State.boundsInv (s : State) : Prop :=
  s.palette.below Config.nPal
  ∧ s.rot.below Config.nRot
  ∧ (∀ c ∈ s.plane, c.1 / 0x2000 < Config.nPlanes ∧ c.1 % 0x2000 < s.planeLen)
  ∧ s.inp.below s.params.maxPixels
  ∧ s.raw.below s.params.maxPixels
  ∧ s.palStage.below Config.palBytes
  ∧ s.rotStage.below Config.rotBytes
  ∧ (∀ c ∈ s.palette, c.2.a = Config.alpha)
  ∧ s.subEnable &&& subMask s.params.nSub = s.subEnable
  ∧ s.pend &&& subMask s.params.nSub = s.pend

/-- No byte of the output bank has been written since reset. -/
abbrev State.bankEmpty (s : State) : Prop := s.palette = [] ∧ s.rot = [] ∧ s.plane = []

/-- Every byte of the output bank has been written since reset. -/
abbrev State.bankFull (s : State) : Prop :=
  (∀ i < Config.nPal, s.palette.read i ≠ none)
  ∧ (∀ j < Config.nRot, s.rot.read j ≠ none)
  ∧ (∀ p < Config.nPlanes, ∀ b < s.planeLen, s.plane.read (planeKey p b) ≠ none)

/-- The output bank is written as a whole or not at all (R241), not before a LOAD, and it is complete while it is published (R77). -/
abbrev State.bankInv (s : State) : Prop :=
  (s.bankEmpty ∨ s.bankFull) ∧ (s.lifecycle = .unloaded → s.bankEmpty) ∧ (s.phase = .publish → s.bankFull)

/-- When a stage reads RAW, PAL_STAGE and ROT_STAGE, COPY or the engine has written every byte it reads (S2, S3). -/
abbrev State.hiddenInv (s : State) : Prop :=
  (s.phase = .engineWait ∨ s.phase = .stages → ∀ i < s.numPixels, s.raw.read i ≠ none)
  ∧ (s.phase = .stages →
      (∀ i < Config.palBytes, s.palStage.read i ≠ none) ∧ (∀ i < Config.rotBytes, s.rotStage.read i ≠ none))

/-- What holds of every state a run reaches. -/
abbrev State.Inv (s : State) : Prop :=
  s.stateInv ∧ s.memInv ∧ s.boundsInv ∧ s.bankInv ∧ s.hiddenInv

/-- The Colored Frame of the output bank (R51): PLANE[0..5][0..L), PALETTE[0..63] and ROT[0..7]. -/
def State.coloredFrame (s : State) : List (List (Option Byte)) × List (Option PaletteEntry) × List (Option RotEntry) :=
  (planeIndices.map fun p => (List.range s.planeLen).map fun b => s.plane.read (planeKey p b),
   (List.range Config.nPal).map fun i => s.palette.read i,
   (List.range Config.nRot).map fun j => s.rot.read j)

/-- The head of the script is RST. -/
abbrev State.resetNext (s : State) : Prop := ∃ rest, s.script = .rst :: rest

end Sys2Proof.Machine
end

