-- ==== Sys2Proof/Certificates/Slice0/Obligations.lean ====
section
/-! DEFINITION. The statements for the provers. `s.withNext e` is the state whose next step is e; its script holds e in front of the
steps to come, so a statement about `step (s.withNext e)` for every s is one about every schedule. Where a statement needs an
invariant of Safety.lean, that invariant is stated to be kept by every step. -/

open Sys2Proof Sys2Proof.Machine

/-! ### Commands, decoding and the step -/

/-- R92: decoding the encoding of a command gives the command back. -/
def Obligations.DecodeOfEncodeIsTheCommand : Prop :=
  ∀ i : Instr, i.wf = true → decodeWord (encode i) = .command i ∧ decodeTableWord 32 (encode i).toNat = some i

/-- R92: a command word selects a command only when it equals that command's word exactly. -/
def Obligations.CommandWordsSelectExactly : Prop :=
  ∀ w : Word, (decodeWord w = .command .load ↔ w = 0x00000001#32)
    ∧ (decodeWord w = .command .colorize ↔ w = 0x00000002#32)
    ∧ (decodeWord w = .command .dispose ↔ w = 0x00000003#32)

/-- R92, R93: words written out from the spec's map and from its reserved encodings. -/
def Obligations.WrittenOutWordsDecode : Prop :=
  decodeWord 0b00000000000000000000000000000001#32 = .command .load
    ∧ decodeWord 0b00000000000000000000000000000010#32 = .command .colorize
    ∧ decodeWord 0b00000000000000000000000000000011#32 = .command .dispose
    ∧ decodeWord 0x00000000#32 = .reservedOpcode 0x00#8
    ∧ decodeWord 0x00000004#32 = .reservedOpcode 0x04#8
    ∧ decodeWord 0x000000FF#32 = .reservedOpcode 0xFF#8
    ∧ decodeWord 0x00000101#32 = .reservedBits 0x000001#24
    ∧ decodeWord 0x80000002#32 = .reservedBits 0x800000#24

/-- R93: an illegal word while BUSY = 0 ends with E_ILLEGAL_CMD and has no other effect; while BUSY = 1 every CMD write is ignored
before it is decoded (R236). -/
def Obligations.IllegalWordEndsWithIllegalCmd : Prop :=
  (∀ (s : State) (w : Word), s.busy = false →
    (w.extractLsb' 8 24 ≠ 0#24 ∨ (w.extractLsb' 0 8 ≠ 1#8 ∧ w.extractLsb' 0 8 ≠ 2#8 ∧ w.extractLsb' 0 8 ≠ 3#8)) →
    step (s.withNext (.cmdWord w)) = .next { s with reply := .written, err := .illegalCmd, errSticky := true })
  ∧ ∀ (s : State) (w : Word), s.busy = true →
    step (s.withNext (.cmdWord w)) = .next { s with reply := .written, wign := true }

/-- R5, R224, R242: one step performs the head of the script; with no agent step to come the block takes the step that is enabled,
and where none is, nothing happens (log 2). -/
def Obligations.StepPerformsTheNextAgentStep : Prop :=
  (∀ (s : State) (e : Event), step (s.withNext e) = perform e s)
  ∧ ∀ s : State, s.script = [] →
    step s = .next (blockStep s) ∧ (s.blockEnabled = false → step s = .next s)

/-- R23: a step whose script begins with the CMD write of a command's word is exec of that command, the bus having taken the write.
This is so in every phase: exec drops the write on a busy block (R236, log 14). withFetchWord sets such a step up (log 3). -/
def Obligations.StepRunsTheDecodedCommand : Prop :=
  ∀ (s : State) (i : Instr) (w : Word), decodeWord w = .command i →
    step (s.withNext (.hostWrite 4 0x00000 w)) = exec i { s with reply := .written }
    ∧ step (s.withFetchWord 32 w.toNat) = exec i { s with reply := .written }

/-- R111: LOAD at its acceptance, in each lifecycle state, and the request it makes. -/
def Obligations.LoadAcceptance : Prop :=
  ∀ s : State, s.busy = false →
    (s.lifecycle = .unloaded → ∃ t, exec .load s = .next t ∧ t = { s with phase := .loadWait }
      ∧ t.busy = true ∧ t.engineRequest = some (.load s.loadArg))
    ∧ (s.lifecycle = .loaded → ∃ t, exec .load s = .next t ∧ t = { s with err := .alreadyLoaded, errSticky := true }
      ∧ t.engineRequest = none)
    ∧ (s.lifecycle = .disposed → ∃ t, exec .load s = .next t ∧ t = { s with err := .disposed, errSticky := true }
      ∧ t.engineRequest = none)

/-- R114: DISPOSE at its acceptance, in each lifecycle state, and the request it makes. -/
def Obligations.DisposeAcceptance : Prop :=
  ∀ s : State, s.busy = false →
    (s.lifecycle = .loaded → ∃ t, exec .dispose s = .next t ∧ t = { s with phase := .disposeWait }
      ∧ t.busy = true ∧ t.engineRequest = some .dispose)
    ∧ (s.lifecycle = .unloaded → ∃ t, exec .dispose s = .next t ∧ t = { s with lifecycle := .disposed, err := .ok }
      ∧ t.engineRequest = none)
    ∧ (s.lifecycle = .disposed → ∃ t, exec .dispose s = .next t ∧ t = { s with err := .disposed, errSticky := true }
      ∧ t.engineRequest = none)

/-- R171: COLORIZE at its acceptance; IN_COUNT is compared with PIXELS over 32 bits. -/
def Obligations.ColorizeAcceptance : Prop :=
  ∀ s : State, s.busy = false →
    (s.lifecycle = .loaded → s.inCount = s.readReg .pixels →
      ∃ t, exec .colorize s = .next t ∧ t = { s with phase := .copy } ∧ t.busy = true)
    ∧ (s.lifecycle = .loaded → s.inCount ≠ s.readReg .pixels →
      exec .colorize s = .next { s with err := .dim, errSticky := true })
    ∧ (s.lifecycle = .unloaded → exec .colorize s = .next { s with err := .notLoaded, errSticky := true })
    ∧ (s.lifecycle = .disposed → exec .colorize s = .next { s with err := .disposed, errSticky := true })

/-- The frame of the three commands at their acceptance (R111, R114, R171, R212, R236): nothing changes but STATE (DISPOSE only),
PHASE, ERR, ERR_STICKY and, on a busy block, WIGN; every byte of every memory reads as before. -/
def Obligations.CommandFrame : Prop :=
  ∀ (i : Instr) (s t : State), exec i s = .next t →
    t = { s with lifecycle := t.lifecycle, phase := t.phase, err := t.err, errSticky := t.errSticky, wign := t.wign }
    ∧ (i ≠ .dispose → t.lifecycle = s.lifecycle)
    ∧ (s.busy = true → t = { s with wign := true })
    ∧ (s.busy = false → t.wign = s.wign)
    ∧ (∀ a, t.inp.read a = s.inp.read a ∧ t.plane.read a = s.plane.read a ∧ t.palette.read a = s.palette.read a
      ∧ t.rot.read a = s.rot.read a ∧ t.raw.read a = s.raw.read a ∧ t.palStage.read a = s.palStage.read a
      ∧ t.rotStage.read a = s.rotStage.read a)

/-- R211: exactly one error is reported for one CMD write, the first that applies; then E_LOAD_FAIL before E_LOAD_GEOM at the engine's
LOAD answer. -/
def Obligations.OneErrorInThePriorityOrder : Prop :=
  (∀ (s : State) (w : Word), ∃ t, step (s.withNext (.cmdWord w)) = .next t
    ∧ (s.busy = true → t = { s with reply := .written, wign := true })
    ∧ (s.busy = false → w ≠ 1#32 → w ≠ 2#32 → w ≠ 3#32 →
        t = { s with reply := .written, err := .illegalCmd, errSticky := true })
    ∧ (s.busy = false → (w = 1#32 ∨ w = 2#32 ∨ w = 3#32) → s.lifecycle = .disposed →
        t = { s with reply := .written, err := .disposed, errSticky := true })
    ∧ (s.busy = false → w = 1#32 → s.lifecycle = .loaded →
        t = { s with reply := .written, err := .alreadyLoaded, errSticky := true })
    ∧ (s.busy = false → w = 2#32 → s.lifecycle = .unloaded →
        t = { s with reply := .written, err := .notLoaded, errSticky := true })
    ∧ (s.busy = false → w = 2#32 → s.lifecycle = .loaded → s.inCount ≠ s.readReg .pixels →
        t = { s with reply := .written, err := .dim, errSticky := true }))
  ∧ ∀ (s : State) (ok : Bool) (w h cc : Word), s.phase = .loadWait → ∃ t, step (s.withNext (.engLoad ok w h cc)) = .next t
    ∧ (ok = false → t.err = .loadFail)
    ∧ (ok = true → w.toInt < 1 ∨ h.toInt < 1 ∨ (s.params.maxPixels : Int) < w.toInt * h.toInt → t.err = .loadGeom)

/-- R213: a command that ends with an error has had no effect except on ERR and ERR_STICKY: at its acceptance, and at the engine's
LOAD answer, where PHASE returns to IDLE. -/
def Obligations.ErrorsChangeOnlyTheErrorFields : Prop :=
  (∀ (i : Instr) (s t : State), s.busy = false → exec i s = .next t → t.phase = .idle → t.err ≠ .ok →
    t = { s with err := t.err, errSticky := true })
  ∧ ∀ (s t : State) (ok : Bool) (w h cc : Word), s.phase = .loadWait → step (s.withNext (.engLoad ok w h cc)) = .next t →
    t.err ≠ .ok → t = { s with phase := .idle, err := t.err, errSticky := true }

/-! ### The engine's answers and the lifecycle -/

/-- R113: the completion of LOAD at the engine's answer, whatever the answer is (R112). -/
def Obligations.LoadAnswerCompletesLoad : Prop :=
  ∀ (s : State) (ok : Bool) (w h cc : Word), s.phase = .loadWait →
    (ok = false → step (s.withNext (.engLoad ok w h cc))
      = .next { s with phase := .idle, err := .loadFail, errSticky := true })
    ∧ (ok = true → w.toInt < 1 ∨ h.toInt < 1 ∨ (s.params.maxPixels : Int) < w.toInt * h.toInt →
      step (s.withNext (.engLoad ok w h cc)) = .next { s with phase := .idle, err := .loadGeom, errSticky := true })
    ∧ (ok = true → 1 ≤ w.toInt → 1 ≤ h.toInt → w.toInt * h.toInt ≤ s.params.maxPixels →
      step (s.withNext (.engLoad ok w h cc))
        = .next { s with phase := .idle, width := w, height := h, colorCount := cc, lifecycle := .loaded, err := .ok })

/-- R115: the engine's DISPOSE answer completes DISPOSE. -/
def Obligations.DisposeAnswerCompletesDispose : Prop :=
  ∀ s : State, s.phase = .disposeWait →
    step (s.withNext .engDispose) = .next { s with phase := .idle, lifecycle := .disposed, err := .ok }

/-- R116, R230: STATE goes from UNLOADED to LOADED by a LOAD answer, to DISPOSED from any other state, and is left as DISPOSED by
reset only. -/
def Obligations.LifecycleMovesForwardOnly : Prop :=
  ∀ s t : State, s.stateInv → step s = .next t →
    t.lifecycle = s.lifecycle
    ∨ (s.lifecycle = .unloaded ∧ t.lifecycle = .loaded ∧ s.phase = .loadWait ∧ t.phase = .idle)
    ∨ (s.lifecycle ≠ .disposed ∧ t.lifecycle = .disposed)
    ∨ (s.resetNext ∧ t.lifecycle = .unloaded)

/-- R32, R33, R34: WIDTH, HEIGHT and COLOR_COUNT are written by a successful LOAD, and by nothing else but reset. -/
def Obligations.BindingWrittenOnlyBySuccessfulLoad : Prop :=
  ∀ s t : State, step s = .next t →
    (t.width = s.width ∧ t.height = s.height ∧ t.colorCount = s.colorCount)
    ∨ (∃ w h cc rest, s.script = .engLoad true w h cc :: rest ∧ s.phase = .loadWait ∧ t.lifecycle = .loaded
        ∧ t.width = w ∧ t.height = h ∧ t.colorCount = cc)
    ∨ (s.resetNext ∧ t.bindingZero)

/-- R27, R110: SRC4 reads 1 exactly when COLOR_COUNT is 16, at every moment, and 0 after reset. -/
def Obligations.SourceFormatFollowsColorCount : Prop :=
  (∀ s : State, ∃ v, step (s.withNext (.hostRead 4 0x00004)) = .next { s with reply := .data v }
    ∧ v.getLsbD 4 = decide (s.readReg .colorCount = 16#32))
  ∧ ∀ p : Config.Params, (State.resetWith p).status.getLsbD 4 = false

/-- R117: a request is outstanding only while BUSY = 1; none is once STATE is DISPOSED; and while one is outstanding a step leaves it
as it is or ends it. -/
def Obligations.AtMostOneUnchangingEngineRequest : Prop :=
  (∀ s : State, s.engineRequest ≠ none → s.busy = true)
  ∧ (∀ s : State, s.stateInv → s.lifecycle = .disposed → s.engineRequest = none)
  ∧ ∀ s t : State, s.engineRequest ≠ none → step s = .next t →
    t.engineRequest = s.engineRequest ∨ t.engineRequest = none

/-- R242: a phase that waits for a peer is left by that peer's step or by reset only; a pending subscriber keeps the block in
PUBLISH, and its bit set, until it acknowledges. -/
def Obligations.StallsHaveNoTimeLimit : Prop :=
  ∀ s t : State, ¬ s.resetNext → step s = .next t →
    (s.phase = .loadWait → (∀ ok w h cc rest, s.script ≠ .engLoad ok w h cc :: rest) → t.phase = .loadWait)
    ∧ (s.phase = .engineWait → (∀ raw pal rot rest, s.script ≠ .engColorize raw pal rot :: rest) → t.phase = .engineWait)
    ∧ (s.phase = .disposeWait → (∀ rest, s.script ≠ .engDispose :: rest) → t.phase = .disposeWait)
    ∧ (s.phase = .publish → s.pend ≠ 0#32 → t.phase = .publish
        ∧ ∀ i, s.pend.getLsbD i = true → (∀ rest, s.script ≠ .ack i :: rest) → t.pend.getLsbD i = true)

/-! ### COLORIZE after its acceptance -/

/-- R172: COPY. A byte of IN never written gives RAW some value (S3, log 11); the request carries WIDTH, HEIGHT and RAW[0..N). -/
def Obligations.CopyFillsRawFromInput : Prop :=
  ∀ s : State, s.phase = .copy → ∃ t, step (s.withNext .block) = .next t
    ∧ t = { s with raw := t.raw, phase := .engineWait, draws := t.draws }
    ∧ (∀ i b, i < s.numPixels → s.inp.read i = some b → t.raw.read i = some b)
    ∧ (∀ i < s.numPixels, t.raw.read i ≠ none)
    ∧ (∀ i, s.numPixels ≤ i → t.raw.read i = s.raw.read i)
    ∧ ∃ frame : List Byte, frame.length = s.numPixels ∧ (∀ i < s.numPixels, t.raw.read i = frame[i]?)
      ∧ t.engineRequest = some (.colorize s.width s.height frame)

/-- R173: the engine's COLORIZE answer writes RAW[0..N), PAL_STAGE and ROT_STAGE, and nothing else but PHASE. -/
def Obligations.ColorizeAnswerWritesEngineSpace : Prop :=
  ∀ (s : State) (raw pal rot : List Byte), s.phase = .engineWait → raw.length = s.numPixels → pal.length = 192 →
    rot.length = 24 → ∃ t, step (s.withNext (.engColorize raw pal rot)) = .next t
    ∧ t = { s with raw := t.raw, palStage := t.palStage, rotStage := t.rotStage, phase := .stages }
    ∧ (∀ i < s.numPixels, t.raw.read i = raw[i]?) ∧ (∀ i, s.numPixels ≤ i → t.raw.read i = s.raw.read i)
    ∧ (∀ i < 192, t.palStage.read i = pal[i]?) ∧ (∀ i < 24, t.rotStage.read i = rot[i]?)

/-- R174, R175: STAGES runs MARSHAL, ROTBUILD and PACK, each on its own input and into its own output, in any order with the same
result, and ends with publish start. -/
def Obligations.StagesRunTheThreeBuildersAndPublish : Prop :=
  ∀ s : State, s.phase = .stages →
    step (s.withNext .block) = .next { s with palette := (marshal s).palette, rot := (rotBuild s).rot,
                                              plane := (pack s).plane,
                                              pend := s.subEnable &&& BitVec.ofNat 32 (2 ^ s.params.nSub - 1),
                                              phase := .publish }
    ∧ pack (rotBuild (marshal s)) = rotBuild (pack (marshal s))
    ∧ pack (rotBuild (marshal s)) = pack (marshal (rotBuild s))
    ∧ pack (rotBuild (marshal s)) = rotBuild (marshal (pack s))
    ∧ pack (rotBuild (marshal s)) = marshal (rotBuild (pack s))
    ∧ pack (rotBuild (marshal s)) = marshal (pack (rotBuild s))

/-- R150, R153: MARSHAL writes all 64 entries positionally with opacity 255, and no other state. -/
def Obligations.MarshalIsPositional : Prop :=
  ∀ s : State, marshal s = { s with palette := (marshal s).palette }
    ∧ ∀ i < 64, (marshal s).palette.read i
      = some ⟨s.palStageByte (3 * i), s.palStageByte (3 * i + 1), s.palStageByte (3 * i + 2), 255#8⟩

/-- R160, R161, R164: ROTBUILD writes all 8 entries in order, inactive ones too, and no other state. -/
def Obligations.RotationKeepsOrderAndCount : Prop :=
  ∀ s : State, rotBuild s = { s with rot := (rotBuild s).rot }
    ∧ ∀ j < 8, (rotBuild s).rot.read j
      = some ⟨s.rotStageByte (3 * j), s.rotStageByte (3 * j + 1), s.rotStageByte (3 * j + 2)⟩

/-- R133: after PACK, by the loop of R132, bit j of plane byte b is bit p of pixel 8b + j. The planes are at most 0x2000 bytes long
in every reachable state (R52, R65). -/
def Obligations.PackLoopHasTheClosedForm : Prop :=
  ∀ s : State, s.planeLen ≤ 0x2000 → ∀ p < 6, ∀ b < s.planeLen,
    (pack s).plane.read (planeKey p b) = some (packedByte s.rawByte p b)
    ∧ ∀ j < 8, (packedByte s.rawByte p b).getLsbD j = (s.rawByte (8 * b + j)).getLsbD p

/-- R130, R138: PACK writes PLANE[p][b] for p in 0..5 and b below L, and nothing else. -/
def Obligations.PackWritesOnlyThePlanes : Prop :=
  ∀ s : State, pack s = { s with plane := (pack s).plane }
    ∧ (∀ a, (∀ p < 6, ∀ b < s.planeLen, a ≠ planeKey p b) → (pack s).plane.read a = s.plane.read a)
    ∧ ∀ p < 6, ∀ b < s.planeLen, (pack s).plane.read (planeKey p b) ≠ none

/-- R134: bits 6 and 7 of a RAW byte are ignored. -/
def Obligations.PackIgnoresBitsSixAndSeven : Prop :=
  ∀ (len : Nat) (frame : List Byte) (m : Memory Byte),
    packFrame len (frame.map fun v => v &&& 0x3F#8) m = packFrame len frame m

/-- R135, R136: the bits of the final partial group are dropped: PACK depends on the pixels below 8L only. -/
def Obligations.FinalPartialGroupIsDropped : Prop :=
  ∀ s t : State, t.pixels = s.pixels → t.plane = s.plane → (∀ i < 8 * s.planeLen, t.rawByte i = s.rawByte i) →
    (pack t).plane = (pack s).plane

/-- R176: an acknowledgement clears its own bit of PEND during PUBLISH, and is ignored at any other time. -/
def Obligations.AcknowledgementClearsItsBit : Prop :=
  ∀ (s : State) (i : Nat),
    (s.phase = .publish → s.pend.getLsbD i = true → ∃ t, step (s.withNext (.ack i)) = .next t
      ∧ t = { s with pend := t.pend } ∧ ∀ j, t.pend.getLsbD j = (s.pend.getLsbD j && decide (j ≠ i)))
    ∧ (s.phase ≠ .publish ∨ s.pend.getLsbD i = false → step (s.withNext (.ack i)) = .next s)

/-- R177, R40, R178: completion takes the block to IDLE and counts the publish; FRAME_COUNT changes at a completion only, by one, and
is 0 after reset. -/
def Obligations.CompletionCountsThePublish : Prop :=
  (∀ s : State, s.phase = .publish → s.pend = 0#32 →
    step (s.withNext .block) = .next { s with phase := .idle, frameCount := s.frameCount + 1#32, err := .ok })
  ∧ ∀ s t : State, step s = .next t →
    t.frameCount = s.frameCount
    ∨ (s.phase = .publish ∧ s.pend = 0#32 ∧ t.phase = .idle ∧ t.frameCount = s.frameCount + 1#32)
    ∨ (s.resetNext ∧ t.frameCount = 0#32)

/-- R176, U10: whatever order the subscribers acknowledge in, with whatever acknowledgements that are ignored, PEND is 0 when every
pending one has, and nothing else has changed: PHASE is still PUBLISH, until the completion of R177. -/
def Obligations.EveryAcknowledgementOrderEmptiesPend : Prop :=
  ∀ (s : State) (order : List Nat) (rest : List Event), s.phase = .publish →
    (∀ i, s.pend.getLsbD i = true → i ∈ order) → s.script = order.map .ack ++ rest →
    Host.Core.run Sys2Proof.core order.length s = .next { s with pend := 0#32, script := rest }

/-- R170 to R178: a whole COLORIZE, from its acceptance to its completion, for every engine answer and every order of
acknowledgements: one publish, the three results of the engine's answer in the output bank, IN as it was. -/
def Obligations.ColorizePublishesTheColoredFrame : Prop :=
  ∀ (s : State) (raw pal rot : List Byte) (order : List Nat), s.stateInv → s.phase = .idle → s.lifecycle = .loaded →
    s.inCount = s.readReg .pixels → raw.length = s.numPixels → pal.length = 192 → rot.length = 24 →
    (∀ i, s.subEnable.getLsbD i = true → i ∈ order) →
    s.script = [.cmd .colorize, .block, .engColorize raw pal rot, .block] ++ order.map .ack ++ [.block] →
    ∃ t, Host.Core.run Sys2Proof.core (5 + order.length) s = .next t
      ∧ t.script = [] ∧ t.phase = .idle ∧ t.lifecycle = .loaded ∧ t.err = .ok ∧ t.frameCount = s.frameCount + 1#32
      ∧ t.inp = s.inp ∧ t.width = s.width ∧ t.height = s.height
      ∧ (∀ i < 64, t.palette.read i = some ⟨pal.getD (3 * i) 0, pal.getD (3 * i + 1) 0, pal.getD (3 * i + 2) 0, 255#8⟩)
      ∧ (∀ j < 8, t.rot.read j = some ⟨rot.getD (3 * j) 0, rot.getD (3 * j + 1) 0, rot.getD (3 * j + 2) 0⟩)
      ∧ ∀ p < 6, ∀ b < s.planeLen, t.plane.read (planeKey p b) = some (packedByte (fun i => raw.getD i 0) p b)

/-- R179: two COLORIZE commands with the same dimensions and the same engine answer leave content-equal Colored Frames, whatever else
differs between the two states, FRAME_COUNT, the earlier bank and the draws among it. -/
def Obligations.EqualAnswersGiveEqualColoredFrames : Prop :=
  ∀ (s t : State) (raw pal rot : List Byte), s.stateInv → t.stateInv → s.phase = .copy → t.phase = .copy →
    t.width = s.width → t.height = s.height → raw.length = s.numPixels → pal.length = 192 → rot.length = 24 →
    s.script = [.block, .engColorize raw pal rot, .block] → t.script = [.block, .engColorize raw pal rot, .block] →
    ∃ s' t', Host.Core.run Sys2Proof.core 3 s = .next s' ∧ Host.Core.run Sys2Proof.core 3 t = .next t'
      ∧ s'.phase = .publish ∧ t'.phase = .publish ∧ s'.coloredFrame = t'.coloredFrame

/-- R43, R44, R45, R51: the output bank is written in STAGES only, and lost at reset; every step of a publish but reset leaves the
Colored Frame as it is. -/
def Obligations.ColoredFrameIsUnchangedWhilePublished : Prop :=
  (∀ s t : State, step s = .next t →
    (t.palette = s.palette ∧ t.rot = s.rot ∧ t.plane = s.plane) ∨ s.phase = .stages ∨ s.resetNext)
  ∧ ∀ s t : State, s.phase = .publish → ¬ s.resetNext → step s = .next t → t.coloredFrame = s.coloredFrame

/-- R46, R47, R48, R73, R180: IN is written by a host write on an idle block only, so COLORIZE preserves it; RAW is written by COPY and
by the engine's COLORIZE answer only, PAL_STAGE and ROT_STAGE by that answer only; reset loses all four. -/
def Obligations.InputAndEngineSpaceWriters : Prop :=
  ∀ s t : State, step s = .next t → ¬ s.resetNext →
    (t.inp = s.inp ∨ (s.busy = false ∧ ∃ n off v rest, s.script = .hostWrite n off v :: rest))
    ∧ ((t.raw = s.raw ∧ t.palStage = s.palStage ∧ t.rotStage = s.rotStage)
      ∨ (s.phase = .copy ∧ t.phase = .engineWait ∧ t.palStage = s.palStage ∧ t.rotStage = s.rotStage)
      ∨ (s.phase = .engineWait ∧ t.phase = .stages ∧ ∃ raw pal rot rest, s.script = .engColorize raw pal rot :: rest))

/-! ### Registers -/

/-- R31: the layout of STATUS, as the host reads it, with the numbers of the lifecycle states (R24) and of the result codes (R201). -/
def Obligations.StatusLayout : Prop :=
  ∀ s : State, ∃ v, step (s.withNext (.hostRead 4 0x00004)) = .next { s with reply := .data v }
    ∧ (s.lifecycle = .unloaded → v.extractLsb' 0 2 = 0#2) ∧ (s.lifecycle = .loaded → v.extractLsb' 0 2 = 1#2)
    ∧ (s.lifecycle = .disposed → v.extractLsb' 0 2 = 2#2)
    ∧ (s.err = .ok → v.extractLsb' 8 4 = 0#4) ∧ (s.err = .illegalCmd → v.extractLsb' 8 4 = 1#4)
    ∧ (s.err = .notLoaded → v.extractLsb' 8 4 = 2#4) ∧ (s.err = .disposed → v.extractLsb' 8 4 = 3#4)
    ∧ (s.err = .alreadyLoaded → v.extractLsb' 8 4 = 4#4) ∧ (s.err = .loadFail → v.extractLsb' 8 4 = 5#4)
    ∧ (s.err = .loadGeom → v.extractLsb' 8 4 = 6#4) ∧ (s.err = .dim → v.extractLsb' 8 4 = 7#4)
    ∧ v.getLsbD 2 = decide (s.phase ≠ .idle) ∧ v.getLsbD 3 = decide (s.phase = .publish)
    ∧ v.getLsbD 4 = decide (s.colorCount = 16#32) ∧ v.extractLsb' 5 3 = 0#3 ∧ v.extractLsb' 12 4 = 0#4 ∧ v.getLsbD 16 = s.errSticky ∧ v.getLsbD 17 = s.wign ∧ v.extractLsb' 18 14 = 0#14

/-- R29, R30, R31, R237: a host write to STATUS clears the W1C bits it names and changes nothing else, busy or not. -/
def Obligations.StatusWriteClearsItsTwoBits : Prop :=
  ∀ (s : State) (v : Word), step (s.withNext (.hostWrite 4 0x00004 v))
    = .next { s with reply := .written, errSticky := if v.getLsbD 16 = true then false else s.errSticky,
                     wign := if v.getLsbD 17 = true then false else s.wign }

/-- R22, R37, R38, R39: every register reads at its offset, in every phase, with no other effect; the read-write registers store what
the host writes on an idle block, SUB_ENABLE its bits below N_SUB. -/
def Obligations.RegistersReadAndStore : Prop :=
  (∀ s : State,
    step (s.withNext (.hostRead 4 0x00000)) = .next { s with reply := .data 0#32 }
    ∧ step (s.withNext (.hostRead 4 0x00004)) = .next { s with reply := .data s.status }
    ∧ step (s.withNext (.hostRead 4 0x00008)) = .next { s with reply := .data s.width }
    ∧ step (s.withNext (.hostRead 4 0x0000C)) = .next { s with reply := .data s.height }
    ∧ step (s.withNext (.hostRead 4 0x00010)) = .next { s with reply := .data s.colorCount }
    ∧ step (s.withNext (.hostRead 4 0x00014)) = .next { s with reply := .data (s.width * s.height) }
    ∧ step (s.withNext (.hostRead 4 0x00018)) = .next { s with reply := .data ((s.width * s.height) >>> 3) }
    ∧ step (s.withNext (.hostRead 4 0x0001C)) = .next { s with reply := .data s.inCount }
    ∧ step (s.withNext (.hostRead 4 0x00020)) = .next { s with reply := .data s.loadArg }
    ∧ step (s.withNext (.hostRead 4 0x00024)) = .next { s with reply := .data s.subEnable }
    ∧ step (s.withNext (.hostRead 4 0x00028)) = .next { s with reply := .data s.frameCount }
    ∧ step (s.withNext (.hostRead 4 0x0002C)) = .next { s with reply := .data (BitVec.ofNat 32 s.params.maxPixels) }
    ∧ step (s.withNext (.hostRead 4 0x00030)) = .next { s with reply := .data (BitVec.ofNat 32 s.params.nSub) })
  ∧ ∀ (s : State) (v : Word), s.busy = false →
    step (s.withNext (.hostWrite 4 0x0001C v)) = .next { s with reply := .written, inCount := v }
    ∧ step (s.withNext (.hostWrite 4 0x00020 v)) = .next { s with reply := .written, loadArg := v }
    ∧ (s.params.nSub ≤ 32 →
      ∃ t, step (s.withNext (.hostWrite 4 0x00024 v)) = .next t ∧ t = { s with reply := .written, subEnable := t.subEnable }
        ∧ ∀ i, t.subEnable.getLsbD i = (v.getLsbD i && decide (i < s.params.nSub)))

/-- R35, R36: where the invariants hold, PIXELS is the exact product and PLANE_LEN its truncated eighth (log 15). -/
def Obligations.PixelsAndPlaneLenAreExact : Prop :=
  ∀ s : State, s.stateInv →
    (s.readReg .pixels).toNat = s.width.toNat * s.height.toNat
    ∧ (s.readReg .planeLen).toNat = s.width.toNat * s.height.toNat / 8
    ∧ s.numPixels = s.width.toNat * s.height.toNat ∧ s.planeLen = s.width.toNat * s.height.toNat / 8
    ∧ s.numPixels ≤ s.params.maxPixels ∧ s.planeLen ≤ 0x2000

/-! ### The bus -/

/-- R67: an access that breaks the width or alignment rules, or lies outside the aperture (log 6), is a bus error: an error response
with read data 0 and no change of state. Every other access is none. -/
def Obligations.BusErrorsChangeNothing : Prop :=
  ∀ (s : State) (n off : Nat) (v : Word),
    (¬ ((off < 0x01000 ∧ n = 4 ∧ off % 4 = 0)
        ∨ (0x01000 ≤ off ∧ off < 0x40000 ∧ (n = 1 ∨ n = 2 ∨ n = 4) ∧ off % n = 0)) →
      step (s.withNext (.hostWrite n off v)) = .next { s with reply := .busError }
      ∧ step (s.withNext (.hostRead n off)) = .next { s with reply := .busError }
      ∧ Reply.busError.readData = 0#32)
    ∧ (((off < 0x01000 ∧ n = 4 ∧ off % 4 = 0)
        ∨ (0x01000 ≤ off ∧ off < 0x40000 ∧ (n = 1 ∨ n = 2 ∨ n = 4) ∧ off % n = 0)) →
      (∀ t, step (s.withNext (.hostWrite n off v)) = .next t → t.reply = .written)
      ∧ ∀ t, step (s.withNext (.hostRead n off)) = .next t → ∃ d, t.reply = .data d)

/-- R68, R66, R237: the RAZ/WI targets, the reserved offsets and the IN window at and above MAX_PIXELS, read 0 and ignore writes, in
every phase, without a bus error and without WIGN. -/
def Obligations.ReservedOffsetsReadZeroIgnoreWrites : Prop :=
  ∀ (s : State) (n off : Nat) (v : Word),
    ((0x00034 ≤ off ∧ off < 0x01000 ∧ n = 4 ∧ off % 4 = 0)
      ∨ (((0x01120 ≤ off ∧ off < 0x10000) ∨ (0x2C000 ≤ off ∧ off < 0x40000)
          ∨ (0x10000 + s.params.maxPixels ≤ off ∧ 0x10000 ≤ off ∧ off < 0x20000))
        ∧ (n = 1 ∨ n = 2 ∨ n = 4) ∧ off % n = 0)) →
    step (s.withNext (.hostRead n off)) = .next { s with reply := .data 0#32 }
    ∧ step (s.withNext (.hostWrite n off v)) = .next { s with reply := .written }

/-- R69: writes to the read-only registers and to the output bank are ignored, busy or not, without a bus error and without WIGN. -/
def Obligations.ReadOnlyTargetsIgnoreWrites : Prop :=
  ∀ (s : State) (v : Word),
    (∀ r ∈ [Reg.width, .height, .colorCount, .pixels, .planeLen, .frameCount, .paramMaxPixels, .paramNSub],
      step (s.withNext (.hostWrite 4 r.offset v)) = .next { s with reply := .written })
    ∧ (v &&& 0x00030000#32 = 0#32 → step (s.withNext (.hostWrite 4 0x00004 v)) = .next { s with reply := .written })
    ∧ (∀ n off, (n = 1 ∨ n = 2 ∨ n = 4) → off % n = 0 → (0x01000 ≤ off ∧ off < 0x01120) ∨ (0x20000 ≤ off ∧ off < 0x2C000) →
      step (s.withNext (.hostWrite n off v)) = .next { s with reply := .written })
    ∧ step (s.withNext (.hostRead 4 0x00000)) = .next { s with reply := .data 0#32 }

/-- R70: no host or subscriber read has a side effect, and a read may be repeated: outside COPY, ENGINE_WAIT and STAGES, where the
bank's bytes are draws (R238), the second answer is the first. -/
def Obligations.ReadsHaveNoSideEffect : Prop :=
  (∀ (s t : State) (n off : Nat), step (s.withNext (.hostRead n off)) = .next t →
    t = { s with reply := t.reply, draws := t.draws }
    ∧ (s.bankUnspecified = false → t.draws = s.draws ∧ step (t.withNext (.hostRead n off)) = .next t))
  ∧ ∀ (s t : State) (i n off : Nat), step (s.withNext (.subRead i n off)) = .next t →
    t = { s with reply := t.reply, draws := t.draws }

/-- R72, R210: a subscriber sees the same bytes as the host at the offsets of its view, by the same bus rules; every other read of
its port, with any width, is a bus error, which for an aligned read outside the view is the model's reading of R67 (log 7). -/
def Obligations.SubscribersSeeTheHostsBytes : Prop :=
  ∀ (s : State) (i n off : Nat), i < s.params.nSub →
    ((0x01000 ≤ off ∧ off < 0x01120) ∨ (0x20000 ≤ off ∧ off < 0x2C000) →
      step (s.withNext (.subRead i n off)) = step (s.withNext (.hostRead n off)))
    ∧ (¬ ((0x01000 ≤ off ∧ off < 0x01120) ∨ (0x20000 ≤ off ∧ off < 0x2C000)) ∨ ¬ (n = 1 ∨ n = 2 ∨ n = 4) ∨ off % n ≠ 0 →
      step (s.withNext (.subRead i n off)) = .next { s with reply := .busError })

/-- R62, R66: a host write of n bytes at IN[i] stores byte k of the value at IN[i + k] and nothing else, and the same access reads the
value's n low bytes back. -/
def Obligations.InputAccessesAreLittleEndian : Prop :=
  ∀ (s : State) (n i : Nat) (v : Word), s.params.wf → s.busy = false → (n = 1 ∨ n = 2 ∨ n = 4) → i % n = 0 →
    i + n ≤ s.params.maxPixels → ∃ t, step (s.withNext (.hostWrite n (0x10000 + i) v)) = .next t
    ∧ t = { s with reply := .written, inp := t.inp }
    ∧ (∀ k < n, t.inp.read (i + k) = some (v.extractLsb' (8 * k) 8))
    ∧ (∀ a, a < i ∨ i + n ≤ a → t.inp.read a = s.inp.read a)
    ∧ step (t.withNext (.hostRead n (0x10000 + i)))
      = .next { t with reply := .data (v &&& BitVec.ofNat 32 (2 ^ (8 * n) - 1)) }

/-- R63, R62, R152: the word, the two halfwords and the bytes of a palette entry, and the word MARSHAL leaves there. -/
def Obligations.PaletteEntryLayout : Prop :=
  ∀ (s : State) (i : Nat), i < 64 → s.bankUnspecified = false →
    (∀ e, s.palette.read i = some e →
      step (s.withNext (.hostRead 4 (0x01000 + 4 * i))) = .next { s with reply := .data (e.a ++ e.b ++ e.g ++ e.r) }
      ∧ step (s.withNext (.hostRead 2 (0x01000 + 4 * i + 0))) = .next { s with reply := .data (0#16 ++ e.g ++ e.r) }
      ∧ step (s.withNext (.hostRead 2 (0x01000 + 4 * i + 2))) = .next { s with reply := .data (0#16 ++ e.a ++ e.b) }
      ∧ step (s.withNext (.hostRead 1 (0x01000 + 4 * i + 0))) = .next { s with reply := .data (e.r.setWidth 32) }
      ∧ step (s.withNext (.hostRead 1 (0x01000 + 4 * i + 1))) = .next { s with reply := .data (e.g.setWidth 32) }
      ∧ step (s.withNext (.hostRead 1 (0x01000 + 4 * i + 2))) = .next { s with reply := .data (e.b.setWidth 32) }
      ∧ step (s.withNext (.hostRead 1 (0x01000 + 4 * i + 3))) = .next { s with reply := .data (e.a.setWidth 32) })
    ∧ step ((marshal s).withNext (.hostRead 4 (0x01000 + 4 * i)))
      = .next { marshal s with reply := .data (0xFF000000#32 ||| ((s.palStageByte (3 * i + 2)).setWidth 32 <<< 16)
          ||| ((s.palStageByte (3 * i + 1)).setWidth 32 <<< 8) ||| (s.palStageByte (3 * i)).setWidth 32) }

/-- R64, R62, R161: the word, the two halfwords and the bytes of a rotation entry; ACTIVE is computed from count at the read. -/
def Obligations.RotationEntryLayout : Prop :=
  ∀ (s : State) (j : Nat) (e : RotEntry), j < 8 → s.bankUnspecified = false → s.rot.read j = some e →
    step (s.withNext (.hostRead 4 (0x01100 + 4 * j)))
      = .next { s with reply := .data (0#7 ++ BitVec.ofBool (decide (e.count ≠ 0#8)) ++ e.interval ++ e.count ++ e.first) }
    ∧ step (s.withNext (.hostRead 2 (0x01100 + 4 * j + 0))) = .next { s with reply := .data (0#16 ++ e.count ++ e.first) }
    ∧ step (s.withNext (.hostRead 2 (0x01100 + 4 * j + 2)))
      = .next { s with reply := .data (0#16 ++ (0#7 ++ BitVec.ofBool (decide (e.count ≠ 0#8))) ++ e.interval) }
    ∧ step (s.withNext (.hostRead 1 (0x01100 + 4 * j + 0))) = .next { s with reply := .data (e.first.setWidth 32) }
    ∧ step (s.withNext (.hostRead 1 (0x01100 + 4 * j + 1))) = .next { s with reply := .data (e.count.setWidth 32) }
    ∧ step (s.withNext (.hostRead 1 (0x01100 + 4 * j + 2))) = .next { s with reply := .data (e.interval.setWidth 32) }
    ∧ step (s.withNext (.hostRead 1 (0x01100 + 4 * j + 3)))
      = .next { s with reply := .data (if e.count = 0#8 then 0#32 else 1#32) }

/-- R65, R62: the plane windows. A byte below L reads as stored, and four of them as one little-endian word. A read of any width
gives byte k of its value from PLANE[p][b + k] where b + k is below L and 0 where it is not, so a read across L too. Where it lies at
and above L it reads 0 in every phase, with no draw (log 13). -/
def Obligations.PlaneWindowLayout : Prop :=
  ∀ (s : State) (p b : Nat), p < 6 → b < 0x2000 →
    (∀ v, b < s.planeLen → s.bankUnspecified = false → s.plane.read (0x2000 * p + b) = some v →
      step (s.withNext (.hostRead 1 (0x20000 + 0x2000 * p + b))) = .next { s with reply := .data (v.setWidth 32) })
    ∧ (∀ v0 v1 v2 v3, b % 4 = 0 → b + 3 < s.planeLen → s.bankUnspecified = false →
      s.plane.read (0x2000 * p + b) = some v0 → s.plane.read (0x2000 * p + (b + 1)) = some v1 →
      s.plane.read (0x2000 * p + (b + 2)) = some v2 → s.plane.read (0x2000 * p + (b + 3)) = some v3 →
      step (s.withNext (.hostRead 4 (0x20000 + 0x2000 * p + b))) = .next { s with reply := .data (v3 ++ v2 ++ v1 ++ v0) })
    ∧ (∀ (n : Nat) (byte : Nat → Byte), (n = 1 ∨ n = 2 ∨ n = 4) → b % n = 0 → s.bankUnspecified = false →
      (∀ k < n, b + k < s.planeLen → s.plane.read (0x2000 * p + (b + k)) = some (byte k)) →
      ∃ d : Word, step (s.withNext (.hostRead n (0x20000 + 0x2000 * p + b))) = .next { s with reply := .data d }
        ∧ ∀ k < 4, d.extractLsb' (8 * k) 8 = if k < n ∧ b + k < s.planeLen then byte k else 0#8)
    ∧ (∀ n : Nat, (n = 1 ∨ n = 2 ∨ n = 4) → b % n = 0 → s.planeLen ≤ b →
      step (s.withNext (.hostRead n (0x20000 + 0x2000 * p + b))) = .next { s with reply := .data 0#32 })

/-- R241: a read of a byte of PALETTE, ROT, PLANE below L or IN that has not been written since reset faults. Of the output bank this
is so outside COPY, ENGINE_WAIT and STAGES; in them such a read is a draw, the model's choice (log 24). -/
def Obligations.UnwrittenReadsFault : Prop :=
  ∀ (s : State) (n off : Nat), s.params.wf → (n = 1 ∨ n = 2 ∨ n = 4) → off % n = 0 →
    (∀ i, off = 0x10000 + i → i + n ≤ s.params.maxPixels → (∃ k < n, s.inp.read (i + k) = none) →
      step (s.withNext (.hostRead n off)) = .fault (.unwrittenRead off))
    ∧ (s.bankUnspecified = false →
      (0x01000 ≤ off → off < 0x01100 → s.palette.read ((off - 0x01000) / 4) = none →
        step (s.withNext (.hostRead n off)) = .fault (.unwrittenRead off))
      ∧ (0x01100 ≤ off → off < 0x01120 → s.rot.read ((off - 0x01100) / 4) = none →
        step (s.withNext (.hostRead n off)) = .fault (.unwrittenRead off))
      ∧ ∀ p b, p < 6 → b < 0x2000 → off = 0x20000 + 0x2000 * p + b →
        (∃ k < n, b + k < s.planeLen ∧ s.plane.read (0x2000 * p + (b + k)) = none) →
        step (s.withNext (.hostRead n off)) = .fault (.unwrittenRead off))

/-- R238: a read of the output bank in COPY, ENGINE_WAIT or STAGES answers with a draw, bytes that nothing constrains and that no
other read is given; in a plane read that crosses L the bytes at and above L are 0 (R65, log 13). It holds for every value of the
draws (log 12), and for a byte not written since reset too, the model's choice (log 24). -/
def Obligations.BankReadsDuringColorizeAreDraws : Prop :=
  ∀ (s : State) (n off : Nat), (s.phase = .copy ∨ s.phase = .engineWait ∨ s.phase = .stages) →
    (n = 1 ∨ n = 2 ∨ n = 4) → off % n = 0 →
    (0x01000 ≤ off → off < 0x01120 →
      step (s.withNext (.hostRead n off))
        = .next { s with reply := .data (leWord ((List.range n).map fun k => Config.freeByte (s.draws + k))),
                         draws := s.draws + n })
    ∧ ∀ p b, p < 6 → b < 0x2000 → b < s.planeLen → off = 0x20000 + 0x2000 * p + b →
      step (s.withNext (.hostRead n off))
        = .next { s with reply := .data (leWord ((List.range n).map fun k =>
                           if b + k < s.planeLen then Config.freeByte (s.draws + k) else 0#8)),
                         draws := s.draws + n }

/-- R77: while a Colored Frame is published, every read of the output bank is answered with data: none faults. -/
def Obligations.PublishedBankReadsAreAnswered : Prop :=
  ∀ (s : State) (n off : Nat), s.Inv → s.phase = .publish → (n = 1 ∨ n = 2 ∨ n = 4) → off % n = 0 →
    (0x01000 ≤ off ∧ off < 0x01120) ∨ (0x20000 ≤ off ∧ off < 0x2C000) →
    ∃ d, step (s.withNext (.hostRead n off)) = .next { s with reply := .data d }

/-! ### Hazards and reset -/

/-- R236, R237, R91: on a busy block a host write to CMD, whatever its value, to IN_COUNT, LOAD_ARG, SUB_ENABLE or to an IN byte below
MAX_PIXELS is dropped and sets WIGN, and nothing else changes; so no step but reset changes a command's operands while BUSY = 1. -/
def Obligations.WritesWhileBusyAreDropped : Prop :=
  (∀ (s : State) (v : Word), s.busy = true →
    (∀ r ∈ [Reg.cmd, .inCount, .loadArg, .subEnable],
      step (s.withNext (.hostWrite 4 r.offset v)) = .next { s with reply := .written, wign := true })
    ∧ ∀ n i, (n = 1 ∨ n = 2 ∨ n = 4) → i % n = 0 → i < s.params.maxPixels → i < 0x10000 →
      step (s.withNext (.hostWrite n (0x10000 + i) v)) = .next { s with reply := .written, wign := true })
  ∧ ∀ s t : State, s.busy = true → ¬ s.resetNext → step s = .next t →
    t.inCount = s.inCount ∧ t.loadArg = s.loadArg ∧ t.subEnable = s.subEnable ∧ t.inp = s.inp

/-- R230: RST, in any state: every register at its reset value, PHASE IDLE, PEND 0, nothing written in any RAM. The same of
`State.reset`, whose parameter values alone are the model's choice (log 4). -/
def Obligations.ResetSetsTheResetValues : Prop :=
  (∀ s : State, ∃ t, step (s.withNext .rst) = .next t ∧ t.params = s.params
    ∧ t = { State.resetWith s.params with script := s.script, draws := s.draws })
  ∧ State.reset = State.resetWith Config.params
  ∧ ∀ p : Config.Params, ∀ t, t = State.resetWith p →
    (∀ r ∈ [Reg.cmd, .status, .width, .height, .colorCount, .pixels, .planeLen, .inCount, .loadArg, .subEnable, .frameCount],
      t.readReg r = 0#32)
    ∧ t.readReg .paramMaxPixels = BitVec.ofNat 32 p.maxPixels ∧ t.readReg .paramNSub = BitVec.ofNat 32 p.nSub
    ∧ t.lifecycle = .unloaded ∧ t.err = .ok ∧ t.errSticky = false ∧ t.wign = false ∧ t.phase = .idle ∧ t.pend = 0#32
    ∧ ∀ a, t.palette.read a = none ∧ t.rot.read a = none ∧ t.plane.read a = none ∧ t.inp.read a = none
      ∧ t.raw.read a = none ∧ t.palStage.read a = none ∧ t.rotStage.read a = none

/-- R231: a reset abandons the command in progress, counts no publish, and an engine answer or an acknowledgement that comes after it
is ignored. -/
def Obligations.ResetAbandonsTheCommand : Prop :=
  ∀ s t : State, step (s.withNext .rst) = .next t →
    t.busy = false ∧ t.frameCount = 0#32 ∧ t.engineRequest = none
    ∧ (∀ ok w h cc, step (t.withNext (.engLoad ok w h cc)) = .next t)
    ∧ (∀ raw pal rot, step (t.withNext (.engColorize raw pal rot)) = .next t)
    ∧ step (t.withNext .engDispose) = .next t
    ∧ ∀ i, step (t.withNext (.ack i)) = .next t

/-! ### The host script -/

/-- SEQ and WAIT as the model schedules them, its choice (log 18), from R95 and R96. SEQ takes the enabled block steps one by one
until none is enabled. WAIT reads STATUS and ends when BUSY reads 0. Else, where the next step of the script is another agent's, that
step is taken and WAIT goes on. Where it is the host's own, or WAIT is the last step, no host step is taken: the block's enabled step
is, if there is one, and WAIT goes on. -/
def Obligations.SeqAndWaitGoOnAsLongAsTheyMust : Prop :=
  (∀ e : Event, e.isHost = true ↔
    ((∃ n off v, e = .hostWrite n off v) ∨ (∃ n off, e = .hostRead n off) ∨ e = .wait))
  ∧ ∀ s : State,
    (s.blockEnabled = true → step (s.withNext .seq) = .next { blockStep s with script := .seq :: s.script })
    ∧ (s.blockEnabled = false → step (s.withNext .seq) = .next s)
    ∧ (s.busy = false → step (s.withNext .wait) = .next { s with reply := .data s.status })
    ∧ (s.busy = true → ∀ e rest, s.script = e :: rest → e.isHost = false →
      step (s.withNext .wait) = .next { s with reply := .data s.status, script := e :: .wait :: rest })
    ∧ (s.busy = true → ∀ e rest, s.script = e :: rest → e.isHost = true →
      step (s.withNext .wait) = .next { s with reply := .data s.status, script := .block :: .wait :: e :: rest })
    ∧ (s.busy = true → s.script = [] →
      step (s.withNext .wait) = .next { s with reply := .data s.status, script := [.block, .wait] })

/-! ### Invariants -/

/-- R52: every step keeps the state invariants. -/
def Obligations.StateInvariantsAreKept : Prop :=
  ∀ s t : State, s.stateInv → step s = .next t → t.stateInv

/-- Every step keeps every memory in its canonical form. -/
def Obligations.CanonicalMemoriesAreKept : Prop :=
  ∀ s t : State, s.memInv → step s = .next t → t.memInv

/-- All the invariants of Safety.lean hold after reset, for every admitted choice of the parameters. -/
def Obligations.EveryInvariantHoldsAtReset : Prop :=
  ∀ p : Config.Params, p.wf → (State.resetWith p).Inv ∧ State.reset.Inv

/-- R39, R43 to R48, R50, R52, R77, R241: every step keeps all the invariants of Safety.lean together: the state invariants, the
canonical form and the bounds of the memories, the opacity of the palette, the output bank written as a whole or not at all and
complete while it is published, and the engine-space bytes written before a stage reads them. -/
def Obligations.EveryInvariantIsKept : Prop :=
  ∀ s t : State, s.Inv → step s = .next t → t.Inv
end

