-- ==== Sys2Proof/Laws/State.lean ====
section
/-! SUPPORT. What each update of State leaves in each field: one lemma per field per update, so that no later proof unfolds a record
update. -/

namespace Sys2Proof.Machine.State

variable (s : State)

/-! ### raiseErr -/

@[simp] theorem raiseErr_params (c : ErrCode) : (s.raiseErr c).params = s.params := rfl
@[simp] theorem raiseErr_lifecycle (c : ErrCode) : (s.raiseErr c).lifecycle = s.lifecycle := rfl
@[simp] theorem raiseErr_err (c : ErrCode) : (s.raiseErr c).err = c := rfl
@[simp] theorem raiseErr_errSticky (c : ErrCode) : (s.raiseErr c).errSticky = true := rfl
@[simp] theorem raiseErr_wign (c : ErrCode) : (s.raiseErr c).wign = s.wign := rfl
@[simp] theorem raiseErr_width (c : ErrCode) : (s.raiseErr c).width = s.width := rfl
@[simp] theorem raiseErr_height (c : ErrCode) : (s.raiseErr c).height = s.height := rfl
@[simp] theorem raiseErr_colorCount (c : ErrCode) : (s.raiseErr c).colorCount = s.colorCount := rfl
@[simp] theorem raiseErr_inCount (c : ErrCode) : (s.raiseErr c).inCount = s.inCount := rfl
@[simp] theorem raiseErr_loadArg (c : ErrCode) : (s.raiseErr c).loadArg = s.loadArg := rfl
@[simp] theorem raiseErr_subEnable (c : ErrCode) : (s.raiseErr c).subEnable = s.subEnable := rfl
@[simp] theorem raiseErr_frameCount (c : ErrCode) : (s.raiseErr c).frameCount = s.frameCount := rfl
@[simp] theorem raiseErr_palette (c : ErrCode) : (s.raiseErr c).palette = s.palette := rfl
@[simp] theorem raiseErr_rot (c : ErrCode) : (s.raiseErr c).rot = s.rot := rfl
@[simp] theorem raiseErr_plane (c : ErrCode) : (s.raiseErr c).plane = s.plane := rfl
@[simp] theorem raiseErr_inp (c : ErrCode) : (s.raiseErr c).inp = s.inp := rfl
@[simp] theorem raiseErr_raw (c : ErrCode) : (s.raiseErr c).raw = s.raw := rfl
@[simp] theorem raiseErr_palStage (c : ErrCode) : (s.raiseErr c).palStage = s.palStage := rfl
@[simp] theorem raiseErr_rotStage (c : ErrCode) : (s.raiseErr c).rotStage = s.rotStage := rfl
@[simp] theorem raiseErr_phase (c : ErrCode) : (s.raiseErr c).phase = .idle := rfl
@[simp] theorem raiseErr_pend (c : ErrCode) : (s.raiseErr c).pend = s.pend := rfl
@[simp] theorem raiseErr_script (c : ErrCode) : (s.raiseErr c).script = s.script := rfl
@[simp] theorem raiseErr_reply (c : ErrCode) : (s.raiseErr c).reply = s.reply := rfl
@[simp] theorem raiseErr_draws (c : ErrCode) : (s.raiseErr c).draws = s.draws := rfl

/-! ### complete -/

@[simp] theorem complete_params : (s.complete).params = s.params := rfl
@[simp] theorem complete_lifecycle : (s.complete).lifecycle = s.lifecycle := rfl
@[simp] theorem complete_err : (s.complete).err = .ok := rfl
@[simp] theorem complete_errSticky : (s.complete).errSticky = s.errSticky := rfl
@[simp] theorem complete_wign : (s.complete).wign = s.wign := rfl
@[simp] theorem complete_width : (s.complete).width = s.width := rfl
@[simp] theorem complete_height : (s.complete).height = s.height := rfl
@[simp] theorem complete_colorCount : (s.complete).colorCount = s.colorCount := rfl
@[simp] theorem complete_inCount : (s.complete).inCount = s.inCount := rfl
@[simp] theorem complete_loadArg : (s.complete).loadArg = s.loadArg := rfl
@[simp] theorem complete_subEnable : (s.complete).subEnable = s.subEnable := rfl
@[simp] theorem complete_frameCount : (s.complete).frameCount = s.frameCount := rfl
@[simp] theorem complete_palette : (s.complete).palette = s.palette := rfl
@[simp] theorem complete_rot : (s.complete).rot = s.rot := rfl
@[simp] theorem complete_plane : (s.complete).plane = s.plane := rfl
@[simp] theorem complete_inp : (s.complete).inp = s.inp := rfl
@[simp] theorem complete_raw : (s.complete).raw = s.raw := rfl
@[simp] theorem complete_palStage : (s.complete).palStage = s.palStage := rfl
@[simp] theorem complete_rotStage : (s.complete).rotStage = s.rotStage := rfl
@[simp] theorem complete_phase : (s.complete).phase = .idle := rfl
@[simp] theorem complete_pend : (s.complete).pend = s.pend := rfl
@[simp] theorem complete_script : (s.complete).script = s.script := rfl
@[simp] theorem complete_reply : (s.complete).reply = s.reply := rfl
@[simp] theorem complete_draws : (s.complete).draws = s.draws := rfl

/-! ### dropWrite -/

@[simp] theorem dropWrite_params : (s.dropWrite).params = s.params := rfl
@[simp] theorem dropWrite_lifecycle : (s.dropWrite).lifecycle = s.lifecycle := rfl
@[simp] theorem dropWrite_err : (s.dropWrite).err = s.err := rfl
@[simp] theorem dropWrite_errSticky : (s.dropWrite).errSticky = s.errSticky := rfl
@[simp] theorem dropWrite_wign : (s.dropWrite).wign = true := rfl
@[simp] theorem dropWrite_width : (s.dropWrite).width = s.width := rfl
@[simp] theorem dropWrite_height : (s.dropWrite).height = s.height := rfl
@[simp] theorem dropWrite_colorCount : (s.dropWrite).colorCount = s.colorCount := rfl
@[simp] theorem dropWrite_inCount : (s.dropWrite).inCount = s.inCount := rfl
@[simp] theorem dropWrite_loadArg : (s.dropWrite).loadArg = s.loadArg := rfl
@[simp] theorem dropWrite_subEnable : (s.dropWrite).subEnable = s.subEnable := rfl
@[simp] theorem dropWrite_frameCount : (s.dropWrite).frameCount = s.frameCount := rfl
@[simp] theorem dropWrite_palette : (s.dropWrite).palette = s.palette := rfl
@[simp] theorem dropWrite_rot : (s.dropWrite).rot = s.rot := rfl
@[simp] theorem dropWrite_plane : (s.dropWrite).plane = s.plane := rfl
@[simp] theorem dropWrite_inp : (s.dropWrite).inp = s.inp := rfl
@[simp] theorem dropWrite_raw : (s.dropWrite).raw = s.raw := rfl
@[simp] theorem dropWrite_palStage : (s.dropWrite).palStage = s.palStage := rfl
@[simp] theorem dropWrite_rotStage : (s.dropWrite).rotStage = s.rotStage := rfl
@[simp] theorem dropWrite_phase : (s.dropWrite).phase = s.phase := rfl
@[simp] theorem dropWrite_pend : (s.dropWrite).pend = s.pend := rfl
@[simp] theorem dropWrite_script : (s.dropWrite).script = s.script := rfl
@[simp] theorem dropWrite_reply : (s.dropWrite).reply = s.reply := rfl
@[simp] theorem dropWrite_draws : (s.dropWrite).draws = s.draws := rfl

/-! ### answer -/

@[simp] theorem answer_params (r : Reply) : (s.answer r).params = s.params := rfl
@[simp] theorem answer_lifecycle (r : Reply) : (s.answer r).lifecycle = s.lifecycle := rfl
@[simp] theorem answer_err (r : Reply) : (s.answer r).err = s.err := rfl
@[simp] theorem answer_errSticky (r : Reply) : (s.answer r).errSticky = s.errSticky := rfl
@[simp] theorem answer_wign (r : Reply) : (s.answer r).wign = s.wign := rfl
@[simp] theorem answer_width (r : Reply) : (s.answer r).width = s.width := rfl
@[simp] theorem answer_height (r : Reply) : (s.answer r).height = s.height := rfl
@[simp] theorem answer_colorCount (r : Reply) : (s.answer r).colorCount = s.colorCount := rfl
@[simp] theorem answer_inCount (r : Reply) : (s.answer r).inCount = s.inCount := rfl
@[simp] theorem answer_loadArg (r : Reply) : (s.answer r).loadArg = s.loadArg := rfl
@[simp] theorem answer_subEnable (r : Reply) : (s.answer r).subEnable = s.subEnable := rfl
@[simp] theorem answer_frameCount (r : Reply) : (s.answer r).frameCount = s.frameCount := rfl
@[simp] theorem answer_palette (r : Reply) : (s.answer r).palette = s.palette := rfl
@[simp] theorem answer_rot (r : Reply) : (s.answer r).rot = s.rot := rfl
@[simp] theorem answer_plane (r : Reply) : (s.answer r).plane = s.plane := rfl
@[simp] theorem answer_inp (r : Reply) : (s.answer r).inp = s.inp := rfl
@[simp] theorem answer_raw (r : Reply) : (s.answer r).raw = s.raw := rfl
@[simp] theorem answer_palStage (r : Reply) : (s.answer r).palStage = s.palStage := rfl
@[simp] theorem answer_rotStage (r : Reply) : (s.answer r).rotStage = s.rotStage := rfl
@[simp] theorem answer_phase (r : Reply) : (s.answer r).phase = s.phase := rfl
@[simp] theorem answer_pend (r : Reply) : (s.answer r).pend = s.pend := rfl
@[simp] theorem answer_script (r : Reply) : (s.answer r).script = s.script := rfl
@[simp] theorem answer_reply (r : Reply) : (s.answer r).reply = r := rfl
@[simp] theorem answer_draws (r : Reply) : (s.answer r).draws = s.draws := rfl

/-! ### clearW1c -/

@[simp] theorem clearW1c_params (v : Word) : (s.clearW1c v).params = s.params := rfl
@[simp] theorem clearW1c_lifecycle (v : Word) : (s.clearW1c v).lifecycle = s.lifecycle := rfl
@[simp] theorem clearW1c_err (v : Word) : (s.clearW1c v).err = s.err := rfl
@[simp] theorem clearW1c_errSticky (v : Word) : (s.clearW1c v).errSticky = (s.errSticky && !v.getLsbD 16) := rfl
@[simp] theorem clearW1c_wign (v : Word) : (s.clearW1c v).wign = (s.wign && !v.getLsbD 17) := rfl
@[simp] theorem clearW1c_width (v : Word) : (s.clearW1c v).width = s.width := rfl
@[simp] theorem clearW1c_height (v : Word) : (s.clearW1c v).height = s.height := rfl
@[simp] theorem clearW1c_colorCount (v : Word) : (s.clearW1c v).colorCount = s.colorCount := rfl
@[simp] theorem clearW1c_inCount (v : Word) : (s.clearW1c v).inCount = s.inCount := rfl
@[simp] theorem clearW1c_loadArg (v : Word) : (s.clearW1c v).loadArg = s.loadArg := rfl
@[simp] theorem clearW1c_subEnable (v : Word) : (s.clearW1c v).subEnable = s.subEnable := rfl
@[simp] theorem clearW1c_frameCount (v : Word) : (s.clearW1c v).frameCount = s.frameCount := rfl
@[simp] theorem clearW1c_palette (v : Word) : (s.clearW1c v).palette = s.palette := rfl
@[simp] theorem clearW1c_rot (v : Word) : (s.clearW1c v).rot = s.rot := rfl
@[simp] theorem clearW1c_plane (v : Word) : (s.clearW1c v).plane = s.plane := rfl
@[simp] theorem clearW1c_inp (v : Word) : (s.clearW1c v).inp = s.inp := rfl
@[simp] theorem clearW1c_raw (v : Word) : (s.clearW1c v).raw = s.raw := rfl
@[simp] theorem clearW1c_palStage (v : Word) : (s.clearW1c v).palStage = s.palStage := rfl
@[simp] theorem clearW1c_rotStage (v : Word) : (s.clearW1c v).rotStage = s.rotStage := rfl
@[simp] theorem clearW1c_phase (v : Word) : (s.clearW1c v).phase = s.phase := rfl
@[simp] theorem clearW1c_pend (v : Word) : (s.clearW1c v).pend = s.pend := rfl
@[simp] theorem clearW1c_script (v : Word) : (s.clearW1c v).script = s.script := rfl
@[simp] theorem clearW1c_reply (v : Word) : (s.clearW1c v).reply = s.reply := rfl
@[simp] theorem clearW1c_draws (v : Word) : (s.clearW1c v).draws = s.draws := rfl

/-! ### withNext -/

@[simp] theorem withNext_params (e : Event) : (s.withNext e).params = s.params := rfl
@[simp] theorem withNext_lifecycle (e : Event) : (s.withNext e).lifecycle = s.lifecycle := rfl
@[simp] theorem withNext_err (e : Event) : (s.withNext e).err = s.err := rfl
@[simp] theorem withNext_errSticky (e : Event) : (s.withNext e).errSticky = s.errSticky := rfl
@[simp] theorem withNext_wign (e : Event) : (s.withNext e).wign = s.wign := rfl
@[simp] theorem withNext_width (e : Event) : (s.withNext e).width = s.width := rfl
@[simp] theorem withNext_height (e : Event) : (s.withNext e).height = s.height := rfl
@[simp] theorem withNext_colorCount (e : Event) : (s.withNext e).colorCount = s.colorCount := rfl
@[simp] theorem withNext_inCount (e : Event) : (s.withNext e).inCount = s.inCount := rfl
@[simp] theorem withNext_loadArg (e : Event) : (s.withNext e).loadArg = s.loadArg := rfl
@[simp] theorem withNext_subEnable (e : Event) : (s.withNext e).subEnable = s.subEnable := rfl
@[simp] theorem withNext_frameCount (e : Event) : (s.withNext e).frameCount = s.frameCount := rfl
@[simp] theorem withNext_palette (e : Event) : (s.withNext e).palette = s.palette := rfl
@[simp] theorem withNext_rot (e : Event) : (s.withNext e).rot = s.rot := rfl
@[simp] theorem withNext_plane (e : Event) : (s.withNext e).plane = s.plane := rfl
@[simp] theorem withNext_inp (e : Event) : (s.withNext e).inp = s.inp := rfl
@[simp] theorem withNext_raw (e : Event) : (s.withNext e).raw = s.raw := rfl
@[simp] theorem withNext_palStage (e : Event) : (s.withNext e).palStage = s.palStage := rfl
@[simp] theorem withNext_rotStage (e : Event) : (s.withNext e).rotStage = s.rotStage := rfl
@[simp] theorem withNext_phase (e : Event) : (s.withNext e).phase = s.phase := rfl
@[simp] theorem withNext_pend (e : Event) : (s.withNext e).pend = s.pend := rfl
@[simp] theorem withNext_script (e : Event) : (s.withNext e).script = e :: s.script := rfl
@[simp] theorem withNext_reply (e : Event) : (s.withNext e).reply = s.reply := rfl
@[simp] theorem withNext_draws (e : Event) : (s.withNext e).draws = s.draws := rfl

/-! ### marshal -/

@[simp] theorem marshal_params : (marshal s).params = s.params := rfl
@[simp] theorem marshal_lifecycle : (marshal s).lifecycle = s.lifecycle := rfl
@[simp] theorem marshal_err : (marshal s).err = s.err := rfl
@[simp] theorem marshal_errSticky : (marshal s).errSticky = s.errSticky := rfl
@[simp] theorem marshal_wign : (marshal s).wign = s.wign := rfl
@[simp] theorem marshal_width : (marshal s).width = s.width := rfl
@[simp] theorem marshal_height : (marshal s).height = s.height := rfl
@[simp] theorem marshal_colorCount : (marshal s).colorCount = s.colorCount := rfl
@[simp] theorem marshal_inCount : (marshal s).inCount = s.inCount := rfl
@[simp] theorem marshal_loadArg : (marshal s).loadArg = s.loadArg := rfl
@[simp] theorem marshal_subEnable : (marshal s).subEnable = s.subEnable := rfl
@[simp] theorem marshal_frameCount : (marshal s).frameCount = s.frameCount := rfl
@[simp] theorem marshal_palette : (marshal s).palette = s.palette.writeRange 0 ((List.range Config.nPal).map s.marshalEntry) := rfl
@[simp] theorem marshal_rot : (marshal s).rot = s.rot := rfl
@[simp] theorem marshal_plane : (marshal s).plane = s.plane := rfl
@[simp] theorem marshal_inp : (marshal s).inp = s.inp := rfl
@[simp] theorem marshal_raw : (marshal s).raw = s.raw := rfl
@[simp] theorem marshal_palStage : (marshal s).palStage = s.palStage := rfl
@[simp] theorem marshal_rotStage : (marshal s).rotStage = s.rotStage := rfl
@[simp] theorem marshal_phase : (marshal s).phase = s.phase := rfl
@[simp] theorem marshal_pend : (marshal s).pend = s.pend := rfl
@[simp] theorem marshal_script : (marshal s).script = s.script := rfl
@[simp] theorem marshal_reply : (marshal s).reply = s.reply := rfl
@[simp] theorem marshal_draws : (marshal s).draws = s.draws := rfl

/-! ### rotBuild -/

@[simp] theorem rotBuild_params : (rotBuild s).params = s.params := rfl
@[simp] theorem rotBuild_lifecycle : (rotBuild s).lifecycle = s.lifecycle := rfl
@[simp] theorem rotBuild_err : (rotBuild s).err = s.err := rfl
@[simp] theorem rotBuild_errSticky : (rotBuild s).errSticky = s.errSticky := rfl
@[simp] theorem rotBuild_wign : (rotBuild s).wign = s.wign := rfl
@[simp] theorem rotBuild_width : (rotBuild s).width = s.width := rfl
@[simp] theorem rotBuild_height : (rotBuild s).height = s.height := rfl
@[simp] theorem rotBuild_colorCount : (rotBuild s).colorCount = s.colorCount := rfl
@[simp] theorem rotBuild_inCount : (rotBuild s).inCount = s.inCount := rfl
@[simp] theorem rotBuild_loadArg : (rotBuild s).loadArg = s.loadArg := rfl
@[simp] theorem rotBuild_subEnable : (rotBuild s).subEnable = s.subEnable := rfl
@[simp] theorem rotBuild_frameCount : (rotBuild s).frameCount = s.frameCount := rfl
@[simp] theorem rotBuild_palette : (rotBuild s).palette = s.palette := rfl
@[simp] theorem rotBuild_rot : (rotBuild s).rot = s.rot.writeRange 0 ((List.range Config.nRot).map s.rotEntry) := rfl
@[simp] theorem rotBuild_plane : (rotBuild s).plane = s.plane := rfl
@[simp] theorem rotBuild_inp : (rotBuild s).inp = s.inp := rfl
@[simp] theorem rotBuild_raw : (rotBuild s).raw = s.raw := rfl
@[simp] theorem rotBuild_palStage : (rotBuild s).palStage = s.palStage := rfl
@[simp] theorem rotBuild_rotStage : (rotBuild s).rotStage = s.rotStage := rfl
@[simp] theorem rotBuild_phase : (rotBuild s).phase = s.phase := rfl
@[simp] theorem rotBuild_pend : (rotBuild s).pend = s.pend := rfl
@[simp] theorem rotBuild_script : (rotBuild s).script = s.script := rfl
@[simp] theorem rotBuild_reply : (rotBuild s).reply = s.reply := rfl
@[simp] theorem rotBuild_draws : (rotBuild s).draws = s.draws := rfl

/-! ### pack -/

@[simp] theorem pack_params : (pack s).params = s.params := rfl
@[simp] theorem pack_lifecycle : (pack s).lifecycle = s.lifecycle := rfl
@[simp] theorem pack_err : (pack s).err = s.err := rfl
@[simp] theorem pack_errSticky : (pack s).errSticky = s.errSticky := rfl
@[simp] theorem pack_wign : (pack s).wign = s.wign := rfl
@[simp] theorem pack_width : (pack s).width = s.width := rfl
@[simp] theorem pack_height : (pack s).height = s.height := rfl
@[simp] theorem pack_colorCount : (pack s).colorCount = s.colorCount := rfl
@[simp] theorem pack_inCount : (pack s).inCount = s.inCount := rfl
@[simp] theorem pack_loadArg : (pack s).loadArg = s.loadArg := rfl
@[simp] theorem pack_subEnable : (pack s).subEnable = s.subEnable := rfl
@[simp] theorem pack_frameCount : (pack s).frameCount = s.frameCount := rfl
@[simp] theorem pack_palette : (pack s).palette = s.palette := rfl
@[simp] theorem pack_rot : (pack s).rot = s.rot := rfl
@[simp] theorem pack_plane : (pack s).plane = packFrame s.planeLen s.rawFrame s.plane := rfl
@[simp] theorem pack_inp : (pack s).inp = s.inp := rfl
@[simp] theorem pack_raw : (pack s).raw = s.raw := rfl
@[simp] theorem pack_palStage : (pack s).palStage = s.palStage := rfl
@[simp] theorem pack_rotStage : (pack s).rotStage = s.rotStage := rfl
@[simp] theorem pack_phase : (pack s).phase = s.phase := rfl
@[simp] theorem pack_pend : (pack s).pend = s.pend := rfl
@[simp] theorem pack_script : (pack s).script = s.script := rfl
@[simp] theorem pack_reply : (pack s).reply = s.reply := rfl
@[simp] theorem pack_draws : (pack s).draws = s.draws := rfl

/-! ### publishStart -/

@[simp] theorem publishStart_params : (publishStart s).params = s.params := rfl
@[simp] theorem publishStart_lifecycle : (publishStart s).lifecycle = s.lifecycle := rfl
@[simp] theorem publishStart_err : (publishStart s).err = s.err := rfl
@[simp] theorem publishStart_errSticky : (publishStart s).errSticky = s.errSticky := rfl
@[simp] theorem publishStart_wign : (publishStart s).wign = s.wign := rfl
@[simp] theorem publishStart_width : (publishStart s).width = s.width := rfl
@[simp] theorem publishStart_height : (publishStart s).height = s.height := rfl
@[simp] theorem publishStart_colorCount : (publishStart s).colorCount = s.colorCount := rfl
@[simp] theorem publishStart_inCount : (publishStart s).inCount = s.inCount := rfl
@[simp] theorem publishStart_loadArg : (publishStart s).loadArg = s.loadArg := rfl
@[simp] theorem publishStart_subEnable : (publishStart s).subEnable = s.subEnable := rfl
@[simp] theorem publishStart_frameCount : (publishStart s).frameCount = s.frameCount := rfl
@[simp] theorem publishStart_palette : (publishStart s).palette = s.palette := rfl
@[simp] theorem publishStart_rot : (publishStart s).rot = s.rot := rfl
@[simp] theorem publishStart_plane : (publishStart s).plane = s.plane := rfl
@[simp] theorem publishStart_inp : (publishStart s).inp = s.inp := rfl
@[simp] theorem publishStart_raw : (publishStart s).raw = s.raw := rfl
@[simp] theorem publishStart_palStage : (publishStart s).palStage = s.palStage := rfl
@[simp] theorem publishStart_rotStage : (publishStart s).rotStage = s.rotStage := rfl
@[simp] theorem publishStart_phase : (publishStart s).phase = .publish := rfl
@[simp] theorem publishStart_pend : (publishStart s).pend = s.subEnable &&& subMask s.params.nSub := rfl
@[simp] theorem publishStart_script : (publishStart s).script = s.script := rfl
@[simp] theorem publishStart_reply : (publishStart s).reply = s.reply := rfl
@[simp] theorem publishStart_draws : (publishStart s).draws = s.draws := rfl

/-! ### Dropped while busy -/

theorem busy_eq_false {s : State} : s.busy = false ↔ s.phase = .idle := by simp [busy]

theorem busy_eq_true {s : State} : s.busy = true ↔ s.phase ≠ .idle := by simp [busy]

/-- On a busy block a write to a writable target is dropped. -/
theorem whenIdle_busy {s : State} (h : s.busy = true) (f : State → State) : s.whenIdle f = s.dropWrite := if_pos h

/-- On an idle block it has its effect. -/
theorem whenIdle_idle {s : State} (h : s.busy = false) (f : State → State) : s.whenIdle f = f s := by simp [whenIdle, h]

end Sys2Proof.Machine.State
end

