-- ==== Sys2Proof/Laws/Bus.lean ====
section
/-! SUPPORT. The aperture map read window by window, little-endian words, and what a host access does in each case. -/

namespace Sys2Proof.Machine

/-! ### The aperture map (R61) -/

theorem targetAt_palette {i k : Nat} (hi : i < 64) (hk : k < 4) : targetAt (0x01000 + 4 * i + k) = .palette i k := by
  unfold targetAt
  rw [if_pos (by omega), show (0x01000 + 4 * i + k - 0x01000) / 4 = i by omega, show (0x01000 + 4 * i + k - 0x01000) % 4 = k by omega]

theorem targetAt_rot {j k : Nat} (hj : j < 8) (hk : k < 4) : targetAt (0x01100 + 4 * j + k) = .rot j k := by
  unfold targetAt
  rw [if_neg (by omega), if_pos (by omega), show (0x01100 + 4 * j + k - 0x01100) / 4 = j by omega,
    show (0x01100 + 4 * j + k - 0x01100) % 4 = k by omega]

theorem targetAt_input {i : Nat} (hi : i < 0x10000) : targetAt (0x10000 + i) = .input i := by
  unfold targetAt
  rw [if_neg (by omega), if_neg (by omega), if_pos (by omega), show 0x10000 + i - 0x10000 = i by omega]

theorem targetAt_plane {p b : Nat} (hp : p < 6) (hb : b < 0x2000) : targetAt (0x20000 + 0x2000 * p + b) = .plane p b := by
  unfold targetAt
  rw [if_neg (by omega), if_neg (by omega), if_neg (by omega), if_pos (by omega),
    show (0x20000 + 0x2000 * p + b - 0x20000) / 0x2000 = p by omega, show (0x20000 + 0x2000 * p + b - 0x20000) % 0x2000 = b by omega]

theorem targetAt_reserved {off : Nat} (h : (0x01120 ≤ off ∧ off < 0x10000) ∨ 0x2C000 ≤ off) : targetAt off = .reserved := by
  unfold targetAt
  rw [if_neg (by omega), if_neg (by omega), if_neg (by omega), if_neg (by omega)]

/-- An offset of the register space is a register's offset, or it is reserved (R22). -/
theorem Reg.at?_eq_none {off : Nat} (h : 0x34 ≤ off) : Reg.at? off = none := by
  unfold Reg.at?
  split <;> first | omega | rfl

/-- Every register stands at its offset (R22). -/
@[simp] theorem Reg.at?_offset (r : Reg) : Reg.at? r.offset = some r := by cases r <;> rfl

/-- The bus rules (R67). -/
theorem accessOk_iff (n off : Nat) : accessOk n off = true ↔
    (off < 0x01000 ∧ n = 4 ∧ off % 4 = 0) ∨ (0x01000 ≤ off ∧ off < 0x40000 ∧ (n = 1 ∨ n = 2 ∨ n = 4) ∧ off % n = 0) := by
  unfold accessOk
  split
  · next h => rw [decide_eq_true_eq]; omega
  · next h => rw [decide_eq_true_eq]; omega

theorem accessOk_window {n off : Nat} (h1 : 0x01000 ≤ off) (h2 : off < 0x40000) (hn : n = 1 ∨ n = 2 ∨ n = 4)
    (ha : off % n = 0) : accessOk n off = true := (accessOk_iff n off).2 (.inr ⟨h1, h2, hn, ha⟩)

/-! ### Host accesses -/

theorem step_withNext (s : State) (e : Event) : step (s.withNext e) = perform e s := rfl

/-- A read the bus refuses (R67). -/
theorem hostRead_busError {n off : Nat} (h : accessOk n off = false) (s : State) :
    hostRead n off s = .next (s.answer .busError) := by
  unfold hostRead; rw [if_pos h]

/-- A write the bus refuses (R67). -/
theorem hostWrite_busError {n off : Nat} (h : accessOk n off = false) (v : Word) (s : State) :
    hostWrite n off v s = .next (s.answer .busError) := by
  unfold hostWrite; rw [if_pos h]

/-- A read of a register (R22). -/
theorem hostRead_reg (r : Reg) (s : State) : hostRead 4 r.offset s = .next (s.answer (.data (s.readReg r))) := by
  cases r <;> rfl

/-- A write to a register (R22). -/
theorem hostWrite_reg (r : Reg) (v : Word) (s : State) :
    hostWrite 4 r.offset v s = writeReg r v (s.answer .written) := by
  cases r <;> rfl

/-- A read of the windows (R61). -/
theorem hostRead_window {n off : Nat} (h1 : 0x01000 ≤ off) (h2 : off < 0x40000) (hn : n = 1 ∨ n = 2 ∨ n = 4)
    (ha : off % n = 0) (s : State) : hostRead n off s = readWindowAnswer n off s := by
  unfold hostRead
  rw [if_neg (by rw [accessOk_window h1 h2 hn ha]; simp), if_neg (by omega)]

/-- A write to the windows (R61). -/
theorem hostWrite_window {n off : Nat} (h1 : 0x01000 ≤ off) (h2 : off < 0x40000) (hn : n = 1 ∨ n = 2 ∨ n = 4)
    (ha : off % n = 0) (v : Word) (s : State) : hostWrite n off v s = .next (writeWindow n off v (s.answer .written)) := by
  unfold hostWrite
  rw [if_neg (by rw [accessOk_window h1 h2 hn ha]; simp), if_neg (by omega)]

/-! ### Subscriber reads (R72, R210) -/

/-- The offsets of the subscribers' view (R60). -/
theorem inSubscriberView_iff (off : Nat) :
    inSubscriberView off = true ↔ (0x01000 ≤ off ∧ off < 0x01120) ∨ (0x20000 ≤ off ∧ off < 0x2C000) := by
  simp [inSubscriberView]

/-- In its view a subscriber's read is the host's (R72). -/
theorem subscriberRead_inView {i : Nat} {s : State} (hi : i < s.params.nSub) (n : Nat) {off : Nat}
    (h : inSubscriberView off = true) : subscriberRead i n off s = hostRead n off s := by
  have hv := (inSubscriberView_iff off).1 h
  unfold subscriberRead hostRead
  rw [if_neg (by omega), h, Bool.true_and]
  split
  · rfl
  · rw [if_neg (by omega)]

/-- Outside its view a subscriber's read is a bus error (R67, log 7). -/
theorem subscriberRead_outOfView {i : Nat} {s : State} (hi : i < s.params.nSub) (n : Nat) {off : Nat}
    (h : inSubscriberView off = false) : subscriberRead i n off s = .next (s.answer .busError) := by
  unfold subscriberRead
  rw [if_neg (by omega), h, Bool.false_and, if_pos rfl]

/-! ### Window reads -/

/-- The bytes of an access that holds values only are these values, whatever the draws. -/
theorem resolveAll_values (d : Nat) (bs : List Byte) : resolveAll d (bs.map .value) = some bs := by
  induction bs generalizing d with
  | nil => rfl
  | cons b bs ih => simp [resolveAll, ByteRead.resolve, ih]

/-- An access with a byte that nothing has written has no bytes (R241). -/
theorem resolveAll_unwritten {d : Nat} {l : List ByteRead} (h : .unwritten ∈ l) : resolveAll d l = none := by
  induction l generalizing d with
  | nil => simp at h
  | cons r l ih =>
    rcases List.mem_cons.1 h with h | h
    · subst h; rfl
    · unfold resolveAll
      rw [ih h]
      cases r.resolve d <;> rfl

/-- A read of values answers their little-endian word and draws nothing (R62, R70). -/
theorem readWindowAnswer_values {n off : Nat} {s : State} {bs : List Byte} (h : s.readWindow n off = bs.map .value) :
    readWindowAnswer n off s = .next (s.answer (.data (leWord bs))) := by
  unfold readWindowAnswer
  rw [h, resolveAll_values]
  simp [State.answer]

/-- A read with a byte that nothing has written faults (R241). -/
theorem readWindowAnswer_unwritten {n off : Nat} {s : State} (h : .unwritten ∈ s.readWindow n off) :
    readWindowAnswer n off s = .fault (.unwrittenRead off) := by
  unfold readWindowAnswer
  rw [resolveAll_unwritten h]

/-- An access each byte of which has a value has these values as its bytes; byte k of it may be draw number d + k. -/
theorem resolveAll_map {f : Nat → ByteRead} {g : Nat → Byte} (n d : Nat) (h : ∀ k < n, (f k).resolve (d + k) = some (g k)) :
    resolveAll d ((List.range n).map f) = some ((List.range n).map g) := by
  induction n generalizing d f g with
  | zero => rfl
  | succ n ih =>
    have h0 : (f 0).resolve d = some (g 0) := h 0 (by omega)
    have hs := ih (f := fun k => f (k + 1)) (g := fun k => g (k + 1)) (d + 1) fun k hk => by
      rw [show d + 1 + k = d + (k + 1) by omega]; exact h (k + 1) (by omega)
    rw [List.range_succ_eq_map]
    simp only [List.map_cons, List.map_map, Function.comp_def, resolveAll, Nat.succ_eq_add_one, h0, hs]

/-- A byte of the output bank outside COPY, ENGINE_WAIT and STAGES (R238). -/
theorem State.bankByte_of_specified {s : State} (h : s.bankUnspecified = false) (b : Option Byte) :
    s.bankByte b = .ofStored b := by
  unfold State.bankByte; rw [h]; rfl

/-- Outside COPY, ENGINE_WAIT and STAGES no byte is a draw. -/
theorem State.unspecified_not_mem {s : State} (h : s.bankUnspecified = false) (n off : Nat) :
    ByteRead.unspecified ∉ s.readWindow n off := by
  unfold State.readWindow
  rw [List.mem_map]
  rintro ⟨k, -, hk⟩
  have hs : ∀ b, ByteRead.ofStored b ≠ .unspecified := by intro b; cases b <;> simp [ByteRead.ofStored]
  cases ht : targetAt (off + k) <;> rw [ht] at hk <;> simp only [State.readTarget, State.bankByte_of_specified h] at hk
  · exact hs _ hk
  · exact hs _ hk
  · split at hk
    · exact hs _ hk
    · simp at hk
  · split at hk
    · exact hs _ hk
    · simp at hk
  · simp at hk

/-! ### Little-endian words (R62) -/

/-- Bit i of a little-endian word is bit i mod 8 of its byte floor(i / 8), zero-extended. -/
theorem getLsbD_leWord (bs : List Byte) {i : Nat} (hi : i < 32) :
    (leWord bs).getLsbD i = (bs.getD (i / 8) 0#8).getLsbD (i % 8) := by
  induction bs generalizing i with
  | nil => simp [leWord]
  | cons b bs ih =>
    simp only [leWord, BitVec.getLsbD_or, BitVec.getLsbD_shiftLeft, BitVec.getLsbD_setWidth, hi, decide_true, Bool.true_and]
    by_cases h : i < 8
    · rw [show i / 8 = 0 by omega, show i % 8 = i by omega]
      simp [h]
    · rw [ih (by omega), BitVec.getLsbD_of_ge b i (by omega), show i / 8 = (i - 8) / 8 + 1 by omega,
        show (i - 8) % 8 = i % 8 by omega]
      simp [h]

theorem leWord_one (a : Byte) : leWord [a] = a.setWidth 32 := by
  apply BitVec.eq_of_getLsbD_eq
  intro i hi
  rw [getLsbD_leWord _ hi]
  interval_cases i <;> simp

theorem leWord_two (a b : Byte) : leWord [a, b] = 0#16 ++ b ++ a := by
  apply BitVec.eq_of_getLsbD_eq
  intro i hi
  rw [getLsbD_leWord _ hi]
  rw [BitVec.getLsbD_append, BitVec.getLsbD_append]
  interval_cases i <;> rfl

/-- Byte k of a little-endian word (R62). -/
theorem extract_leWord (bs : List Byte) {k : Nat} (hk : k < 4) : (leWord bs).extractLsb' (8 * k) 8 = bs.getD k 0#8 := by
  apply BitVec.eq_of_getLsbD_eq
  intro i hi
  rw [BitVec.getLsbD_extractLsb', getLsbD_leWord _ (by omega), show (8 * k + i) / 8 = k by omega,
    show (8 * k + i) % 8 = i by omega]
  simp [hi]

theorem leWord_four (a b c d : Byte) : leWord [a, b, c, d] = d ++ c ++ b ++ a := by
  apply BitVec.eq_of_getLsbD_eq
  intro i hi
  rw [getLsbD_leWord _ hi]
  rw [BitVec.getLsbD_append, BitVec.getLsbD_append, BitVec.getLsbD_append]
  interval_cases i <;> rfl

/-- The bytes of a word, little-endian, are its low bytes (R62). -/
theorem leWord_leBytes (n : Nat) (v : Word) : leWord (leBytes n v) = v &&& BitVec.ofNat 32 (2 ^ (8 * n) - 1) := by
  apply BitVec.eq_of_getLsbD_eq
  intro i hi
  rw [getLsbD_leWord _ hi, BitVec.getLsbD_and, BitVec.getLsbD_ofNat, Nat.testBit_two_pow_sub_one]
  simp only [hi, decide_true, Bool.true_and]
  by_cases h : i / 8 < n
  · have h2 : i < 8 * n := by omega
    simp [leBytes, List.getD_eq_getElem?_getD, h, h2, show 8 * (i / 8) + i % 8 = i by omega, show i % 8 < 8 by omega]
  · have h2 : ¬ i < 8 * n := by omega
    simp [leBytes, List.getD_eq_getElem?_getD, h, h2]

end Sys2Proof.Machine
end

