-- ==== Sys2Proof/Laws/Effect.lean ====
section
/-! SUPPORT. Everything one step can do, said once: exec's three cases for each command, and the effect of a step on the spec's own
state, the script, the reply and the draws apart. -/

namespace Sys2Proof.Machine

/-- A command always has a next state: it never faults and is never refused. -/
theorem exec_next (i : Instr) (s : State) : ∃ t, exec i s = .next t := by
  cases i <;> exact ⟨_, rfl⟩

/-- The effect of one step on the spec's own state; e is the event performed, if one was. -/
inductive Effect (e : Option Event) (s : State) : State → Prop
  /-- Nothing changes. -/
  | same : Effect e s s
  /-- A host write dropped on a busy block (R236, R237). -/
  | dropped (hb : s.busy = true) : Effect e s s.dropWrite
  /-- A host write to STATUS (R29, R30). -/
  | w1c (v : Word) : Effect e s (s.clearW1c v)
  | inCount (v : Word) (hb : s.busy = false) : Effect e s { s with inCount := v }
  | loadArg (v : Word) (hb : s.busy = false) : Effect e s { s with loadArg := v }
  | subEnable (v : Word) (hb : s.busy = false) : Effect e s { s with subEnable := v &&& subMask s.params.nSub }
  /-- A host write to IN below MAX_PIXELS (R66). -/
  | input (i : Nat) (bs : List Byte) (hb : s.busy = false) (hi : i < s.params.maxPixels)
      (hh : ∃ n off v, e = some (.hostWrite n off v)) :
      Effect e s { s with inp := s.inp.writeRange i (bs.take (s.params.maxPixels - i)) }
  /-- An error at the acceptance of a command (R212). -/
  | refused (c : ErrCode) (hc : c ≠ .ok) (hb : s.busy = false) : Effect e s (s.raiseErr c)
  /-- LOAD accepted (R111). -/
  | loadAccepted (hb : s.busy = false) (hl : s.lifecycle = .unloaded) : Effect e s { s with phase := .loadWait }
  /-- COLORIZE accepted (R171). -/
  | colorizeAccepted (hb : s.busy = false) (hl : s.lifecycle = .loaded) (hn : s.inCount = s.pixels) :
      Effect e s { s with phase := .copy }
  /-- DISPOSE accepted in LOADED (R114). -/
  | disposeAccepted (hb : s.busy = false) (hl : s.lifecycle = .loaded) : Effect e s { s with phase := .disposeWait }
  /-- DISPOSE in UNLOADED (R114). -/
  | disposedAtOnce (hb : s.busy = false) (hl : s.lifecycle = .unloaded) : Effect e s { s.complete with lifecycle := .disposed }
  /-- A LOAD answer that fails LOAD (R113). -/
  | loadFailed (c : ErrCode) (hc : c ≠ .ok) (hp : s.phase = .loadWait)
      (hh : ∃ ok w h cc, e = some (.engLoad ok w h cc)) : Effect e s (s.raiseErr c)
  /-- A LOAD answer that completes LOAD (R113). -/
  | loaded (w h cc : Word) (hp : s.phase = .loadWait) (hg : s.geometryOk w h = true)
      (hh : e = some (.engLoad true w h cc)) :
      Effect e s { s.complete with width := w, height := h, colorCount := cc, lifecycle := .loaded }
  /-- The DISPOSE answer (R115). -/
  | disposed (hp : s.phase = .disposeWait) (hh : e = some .engDispose) :
      Effect e s { s.complete with lifecycle := .disposed }
  /-- COPY (R172). -/
  | copied (hp : s.phase = .copy) : Effect e s (copyStep s)
  /-- The COLORIZE answer (R173). -/
  | answered (raw pal rot : List Byte) (hp : s.phase = .engineWait)
      (hl : raw.length = s.numPixels ∧ pal.length = Config.palBytes ∧ rot.length = Config.rotBytes)
      (hh : e = some (.engColorize raw pal rot)) :
      Effect e s { s with raw := s.raw.writeRange 0 raw, palStage := s.palStage.writeRange 0 pal,
                          rotStage := s.rotStage.writeRange 0 rot, phase := .stages }
  /-- STAGES with publish start (R174, R175). -/
  | staged (hp : s.phase = .stages) : Effect e s (stagesStep s)
  /-- An acknowledgement that is waited for (R176). -/
  | acknowledged (i : Nat) (hp : s.phase = .publish) (hi : s.pend.getLsbD i = true)
      (hh : e = some (.ack i)) : Effect e s { s with pend := s.pend &&& ~~~(1#32 <<< i) }
  /-- Completion (R177). -/
  | completed (hp : s.phase = .publish) (hz : s.pend = 0#32) : Effect e s (completeStep s)
  /-- RST (R230). -/
  | wasReset (hh : e = some .rst) : Effect e s (State.resetWith s.params)

/-- t is u, but for the script, the reply and the draws. -/
def EqButModel (t u : State) : Prop := t = { u with script := t.script, reply := t.reply, draws := t.draws }

/-- A state that differs in the reply and the draws differs in the model's own fields only. -/
theorem EqButModel.of_read {s t : State} (h : t = { s with reply := t.reply, draws := t.draws }) : EqButModel t s := by
  have hs : t.script = s.script := by
    have h1 := congrArg State.script h
    exact h1
  unfold EqButModel
  rw [hs]
  exact h

/-- What a block step does. -/
theorem blockStep_effect (e : Option Event) (s : State) : ∃ u, Effect e s u ∧ EqButModel (blockStep s) u := by
  unfold blockStep
  split
  · exact ⟨s, .same, rfl⟩
  · exact ⟨s, .same, rfl⟩
  · exact ⟨s, .same, rfl⟩
  · next h => exact ⟨_, .copied h, rfl⟩
  · exact ⟨s, .same, rfl⟩
  · next h => exact ⟨_, .staged h, rfl⟩
  · next h =>
    split
    · next hz => exact ⟨_, .completed h hz, rfl⟩
    · exact ⟨s, .same, rfl⟩

/-- Where no block step is enabled, none does anything. -/
theorem blockStep_of_disabled {s : State} (h : s.blockEnabled = false) : blockStep s = s := by
  unfold State.blockEnabled at h
  unfold blockStep
  split <;> simp_all

/-- What a read of the windows does. -/
theorem readWindowAnswer_effect {n off : Nat} {s t : State} (h : readWindowAnswer n off s = .next t) :
    t = { s with reply := t.reply, draws := t.draws } := by
  unfold readWindowAnswer at h
  split at h
  · simp at h
  · cases h; rfl

theorem hostRead_effect {n off : Nat} {s t : State} (h : hostRead n off s = .next t) :
    t = { s with reply := t.reply, draws := t.draws } := by
  unfold hostRead at h
  split at h
  · cases h; rfl
  · split at h
    · cases h; rfl
    · exact readWindowAnswer_effect h

theorem subscriberRead_effect {i n off : Nat} {s t : State} (h : subscriberRead i n off s = .next t) :
    t = { s with reply := t.reply, draws := t.draws } := by
  unfold subscriberRead at h
  split at h
  · simp at h
  · split at h
    · cases h; rfl
    · exact readWindowAnswer_effect h

/-- What a command does. -/
theorem exec_effect {e : Option Event} {i : Instr} {s t : State} (h : exec i s = .next t) : Effect e s t := by
  by_cases hb : s.busy = true
  · have ht : t = s.dropWrite := by
      cases i
      · simpa [exec, execLoad, State.whenIdle_busy hb] using h.symm
      · simpa [exec, execColorize, State.whenIdle_busy hb] using h.symm
      · simpa [exec, execDispose, State.whenIdle_busy hb] using h.symm
    exact ht ▸ .dropped hb
  · replace hb : s.busy = false := by simpa using hb
    cases i
    · simp only [exec, execLoad, State.whenIdle_idle hb] at h
      split at h <;> cases h
      · exact .refused _ (by decide) hb
      · exact .refused _ (by decide) hb
      · next hl => exact .loadAccepted hb hl
    · simp only [exec, execColorize, State.whenIdle_idle hb] at h
      split at h
      · cases h; exact .refused _ (by decide) hb
      · cases h; exact .refused _ (by decide) hb
      · next hl =>
        split at h
        · cases h; exact .refused _ (by decide) hb
        · next hn => cases h; exact .colorizeAccepted hb hl (by simpa using hn)
    · simp only [exec, execDispose, State.whenIdle_idle hb] at h
      split at h <;> cases h
      · exact .refused _ (by decide) hb
      · next hl => exact .disposedAtOnce hb hl
      · next hl => exact .disposeAccepted hb hl

/-- What a CMD write does. -/
theorem submitCommand_effect {e : Option Event} {w : Word} {s t : State} (h : submitCommand w s = .next t) : Effect e s t := by
  unfold submitCommand at h
  split at h
  · next hb => cases h; exact .dropped hb
  · next hb =>
    have hb : s.busy = false := by simpa using hb
    split at h
    · exact exec_effect h
    · cases h; exact .refused _ (by decide) hb
    · cases h; exact .refused _ (by decide) hb

/-- A write that is dropped while busy. -/
theorem whenIdle_effect {e : Option Event} {s : State} {f : State → State} (h : s.busy = false → Effect e s (f s)) :
    Effect e s (s.whenIdle f) := by
  by_cases hb : s.busy = true
  · rw [State.whenIdle_busy hb]; exact .dropped hb
  · have hb : s.busy = false := by simpa using hb
    rw [State.whenIdle_idle hb]; exact h hb

theorem writeReg_effect {e : Option Event} {r : Reg} {v : Word} {s t : State} (h : writeReg r v s = .next t) : Effect e s t := by
  unfold writeReg at h
  split at h
  · exact submitCommand_effect h
  all_goals cases h
  · exact .w1c v
  · exact whenIdle_effect fun hb => .inCount v hb
  · exact whenIdle_effect fun hb => .loadArg v hb
  · exact whenIdle_effect fun hb => .subEnable v hb
  all_goals exact .same

theorem writeWindow_effect {e : Option Event} {n off : Nat} {v : Word} {s : State}
    (hh : ∃ n off v, e = some (.hostWrite n off v)) : Effect e s (writeWindow n off v s) := by
  unfold writeWindow
  split
  · unfold writeInput
    split
    · next hi => exact whenIdle_effect fun hb => .input _ _ hb hi hh
    · exact .same
  all_goals exact .same

/-- The effect does not depend on the script or on the reply. -/
theorem Effect.transfer {e : Option Event} {s t : State} {sc : List Event} {r : Reply}
    (h : Effect e { s with script := sc, reply := r } t) : ∃ u, Effect e s u ∧ EqButModel t u := by
  cases h with
  | same => exact ⟨_, .same, rfl⟩
  | dropped hb => exact ⟨_, .dropped hb, rfl⟩
  | w1c v => exact ⟨_, .w1c v, rfl⟩
  | inCount v hb => exact ⟨_, .inCount v hb, rfl⟩
  | loadArg v hb => exact ⟨_, .loadArg v hb, rfl⟩
  | subEnable v hb => exact ⟨_, .subEnable v hb, rfl⟩
  | input i bs hb hi hh => exact ⟨_, .input i bs hb hi hh, rfl⟩
  | refused c hc hb => exact ⟨_, .refused c hc hb, rfl⟩
  | loadAccepted hb hl => exact ⟨_, .loadAccepted hb hl, rfl⟩
  | colorizeAccepted hb hl hn => exact ⟨_, .colorizeAccepted hb hl hn, rfl⟩
  | disposeAccepted hb hl => exact ⟨_, .disposeAccepted hb hl, rfl⟩
  | disposedAtOnce hb hl => exact ⟨_, .disposedAtOnce hb hl, rfl⟩
  | loadFailed c hc hp hh => exact ⟨_, .loadFailed c hc hp hh, rfl⟩
  | loaded w h cc hp hg hh => exact ⟨_, .loaded w h cc hp hg hh, rfl⟩
  | disposed hp hh => exact ⟨_, .disposed hp hh, rfl⟩
  | copied hp => exact ⟨_, .copied hp, rfl⟩
  | answered raw pal rot hp hl hh => exact ⟨_, .answered raw pal rot hp hl hh, rfl⟩
  | staged hp => exact ⟨_, .staged hp, rfl⟩
  | acknowledged i hp hi hh => exact ⟨_, .acknowledged i hp hi hh, rfl⟩
  | completed hp hz => exact ⟨_, .completed hp hz, rfl⟩
  | wasReset hh => exact ⟨_, .wasReset hh, rfl⟩

theorem hostWrite_effect {n off : Nat} {v : Word} {s t : State} (h : hostWrite n off v s = .next t) :
    ∃ u, Effect (some (.hostWrite n off v)) s u ∧ EqButModel t u := by
  unfold hostWrite at h
  split at h
  · cases h; exact ⟨_, .same, rfl⟩
  · split at h
    · split at h
      · exact Effect.transfer (sc := s.script) (r := .written) (writeReg_effect h)
      · cases h; exact ⟨_, .same, rfl⟩
    · cases h
      exact Effect.transfer (sc := s.script) (r := .written) (writeWindow_effect ⟨_, _, _, rfl⟩)

theorem engineLoadAnswer_effect (ok : Bool) (w h cc : Word) (s : State) :
    Effect (some (.engLoad ok w h cc)) s (engineLoadAnswer ok w h cc s) := by
  unfold engineLoadAnswer
  split
  · exact .same
  · next hp =>
    have hp : s.phase = .loadWait := by simpa using hp
    split
    · exact .loadFailed _ (by decide) hp ⟨_, _, _, _, rfl⟩
    · next hok =>
      have hok : ok = true := by simpa using hok
      split
      · exact .loadFailed _ (by decide) hp ⟨_, _, _, _, rfl⟩
      · next hg => exact .loaded w h cc hp (by simpa using hg) (by rw [hok])

/-- What the step of one agent does. -/
theorem perform_effect {e : Event} {s t : State} (h : perform e s = .next t) :
    ∃ u, Effect (some e) s u ∧ EqButModel t u := by
  cases e with
  | hostWrite n off v => exact hostWrite_effect h
  | hostRead n off => exact ⟨s, .same, .of_read (hostRead_effect h)⟩
  | subRead i n off => exact ⟨s, .same, .of_read (subscriberRead_effect h)⟩
  | ack i =>
    simp only [perform, acknowledge] at h
    split at h
    · next hp => cases h; exact ⟨_, .acknowledged i hp.1 hp.2 rfl, rfl⟩
    · cases h; exact ⟨s, .same, rfl⟩
  | engLoad ok w h' cc =>
    cases h; exact ⟨_, engineLoadAnswer_effect ok w h' cc s, rfl⟩
  | engColorize raw pal rot =>
    simp only [perform, engineColorizeAnswer] at h
    split at h
    · cases h; exact ⟨s, .same, rfl⟩
    · next hp =>
      split at h
      · next hl => cases h; exact ⟨_, .answered raw pal rot (by simpa using hp) hl rfl, rfl⟩
      · simp at h
  | engDispose =>
    simp only [perform, engineDisposeAnswer] at h
    split at h
    · cases h; exact ⟨s, .same, rfl⟩
    · next hp => cases h; exact ⟨_, .disposed (by simpa using hp) rfl, rfl⟩
  | block => cases h; exact blockStep_effect _ s
  | seq =>
    simp only [perform, seqStep] at h
    split at h
    · cases h
      obtain ⟨u, hu, he⟩ := blockStep_effect (some .seq) s
      exact ⟨u, hu, by unfold EqButModel at he ⊢; rw [he]⟩
    · cases h; exact ⟨s, .same, rfl⟩
  | wait => cases h; exact ⟨s, .same, rfl⟩
  | rst => cases h; exact ⟨_, .wasReset rfl, rfl⟩

/-- What one step does: an effect on the spec's own state, and some script, reply and count of draws. -/
theorem step_effect {s t : State} (h : step s = .next t) :
    ∃ u, Effect s.script.head? s u ∧ EqButModel t u := by
  unfold step at h
  split at h
  · next hs => cases h; exact blockStep_effect _ s
  · next e rest hs =>
    obtain ⟨u, hu, he⟩ := perform_effect h
    obtain ⟨u', hu', he'⟩ := Effect.transfer (sc := rest) (r := s.reply) hu
    refine ⟨u', by simpa [hs] using hu', ?_⟩
    unfold EqButModel at he he' ⊢
    rw [he, he']

end Sys2Proof.Machine
end

