-- ==== Sys2Proof/Laws/Memory.lean ====
section
/-! SUPPORT. What reading and writing a memory does: a read after a run of writes, the canonical form, and that memories in
canonical form that read alike are equal. -/

namespace Sys2Proof.Machine.Memory

variable {α : Type}

@[simp] theorem read_nil (a : Nat) : read ([] : Memory α) a = none := rfl

theorem read_cons (c : Nat × α) (m : Memory α) (a : Nat) :
    read (c :: m) a = if c.1 = a then some c.2 else read m a := rfl

theorem read_append (m n : Memory α) (a : Nat) : read (m ++ n) a = (read m a).or (read n a) := by
  induction m with
  | nil => simp
  | cons c m ih =>
    rw [List.cons_append, read_cons, read_cons, ih]
    split <;> simp

/-- Reading a memory restricted to the addresses that P admits. -/
theorem read_filter (P : Nat → Bool) (m : Memory α) (a : Nat) :
    read (m.filter fun c => P c.1) a = if P a then read m a else none := by
  induction m with
  | nil => simp
  | cons c m ih =>
    rw [List.filter_cons]
    by_cases hP : P c.1 = true
    · rw [if_pos hP, read_cons, read_cons, ih]
      by_cases hk : c.1 = a
      · subst hk; simp [hP]
      · simp [hk]
    · rw [if_neg hP, ih, read_cons]
      by_cases hk : c.1 = a
      · subst hk; simp [hP]
      · simp [hk]

theorem read_cells (a : Nat) (vs : List α) (x : Nat) :
    read (cells a vs) x = if a ≤ x then vs[x - a]? else none := by
  induction vs generalizing a with
  | nil => simp [cells]
  | cons v vs ih =>
    simp only [cells, read_cons, ih]
    by_cases h : a = x
    · subst h; simp
    · by_cases h2 : a + 1 ≤ x
      · have : x - a = (x - (a + 1)) + 1 := by omega
        have h3 : a ≤ x := by omega
        simp [h, h2, h3, this]
      · have h3 : ¬ a ≤ x := by omega
        simp [h, h2, h3]

/-- A read inside the run gives what was written there. -/
theorem read_writeRange_in (m : Memory α) {a x : Nat} {vs : List α} (h1 : a ≤ x) (h2 : x < a + vs.length) :
    (m.writeRange a vs).read x = vs[x - a]? := by
  have h3 : ¬ x < a := by omega
  have h4 : ¬ a + vs.length ≤ x := by omega
  have h5 : x - a < vs.length := by omega
  simp only [writeRange, read_append, read_cells]
  rw [read_filter (fun k => decide (k < a)), read_filter (fun k => decide (a + vs.length ≤ k))]
  simp [h1, h3, h4, h5]

/-- A read outside the run gives what it gave before. -/
theorem read_writeRange_out (m : Memory α) {a x : Nat} {vs : List α} (h : x < a ∨ a + vs.length ≤ x) :
    (m.writeRange a vs).read x = m.read x := by
  simp only [writeRange, read_append, read_cells]
  rw [read_filter (fun k => decide (k < a)), read_filter (fun k => decide (a + vs.length ≤ k))]
  rcases h with h | h
  · have h1 : ¬ a ≤ x := by omega
    have h2 : ¬ a + vs.length ≤ x := by omega
    simp [h, h1, h2]
  · have h1 : ¬ x < a := by omega
    have h2 : a ≤ x := by omega
    have h3 : vs[x - a]? = none := by simp; omega
    simp [h, h1, h2, h3]

/-- A read after a run of writes. -/
theorem read_writeRange (m : Memory α) (a x : Nat) (vs : List α) :
    (m.writeRange a vs).read x = if a ≤ x ∧ x < a + vs.length then vs[x - a]? else m.read x := by
  split
  · next h => exact read_writeRange_in m h.1 h.2
  · next h => exact read_writeRange_out m (by omega)

@[simp] theorem read_write (m : Memory α) (a x : Nat) (v : α) :
    (m.write a v).read x = if a = x then some v else m.read x := by
  rw [write, read_writeRange]
  by_cases h : a = x
  · subst h; simp
  · have : ¬ (a ≤ x ∧ x < a + [v].length) := by simp; omega
    rw [if_neg this, if_neg h]

/-- A read after a run that a function on the indexes gives. -/
theorem read_writeRange_map (m : Memory α) (n x : Nat) (f : Nat → α) :
    (m.writeRange 0 ((List.range n).map f)).read x = if x < n then some (f x) else m.read x := by
  rw [read_writeRange]
  by_cases h : x < n
  · simp [h]
  · simp [h]

theorem mem_cells {a : Nat} {vs : List α} {c : Nat × α} (h : c ∈ cells a vs) :
    a ≤ c.1 ∧ c.1 < a + vs.length ∧ c.2 ∈ vs := by
  induction vs generalizing a with
  | nil => simp [cells] at h
  | cons v vs ih =>
    simp only [cells, List.mem_cons] at h
    rcases h with rfl | h
    · simp
    · have := ih h
      simp only [List.length_cons, List.mem_cons]
      exact ⟨by omega, by omega, .inr this.2.2⟩

/-- Every cell after a run of writes is one of the run's or was there before. -/
theorem mem_writeRange {m : Memory α} {a : Nat} {vs : List α} {c : Nat × α} (h : c ∈ m.writeRange a vs) :
    (a ≤ c.1 ∧ c.1 < a + vs.length ∧ c.2 ∈ vs) ∨ c ∈ m := by
  simp only [writeRange, List.mem_append, List.mem_filter] at h
  rcases h with (h | h) | h
  · exact .inr h.1
  · exact .inl (mem_cells h)
  · exact .inr h.1

theorem wf_cells (a : Nat) (vs : List α) : (cells a vs).wf := by
  induction vs generalizing a with
  | nil => simp [cells]
  | cons v vs ih =>
    simp only [cells]
    refine List.Pairwise.cons (fun c hc => ?_) (ih _)
    have := mem_cells hc
    show a < c.1
    omega

/-- A run of writes keeps the canonical form. -/
theorem wf_writeRange {m : Memory α} (h : m.wf) (a : Nat) (vs : List α) : (m.writeRange a vs).wf := by
  unfold writeRange
  refine List.pairwise_append.2 ⟨List.pairwise_append.2 ⟨h.filter _, wf_cells a vs, ?_⟩, h.filter _, ?_⟩
  · intro c hc d hd
    have h1 := (List.mem_filter.1 hc).2
    have h2 := mem_cells hd
    simp only [decide_eq_true_eq] at h1
    omega
  · intro c hc d hd
    have h2 := (List.mem_filter.1 hd).2
    simp only [decide_eq_true_eq] at h2
    rcases List.mem_append.1 hc with hc | hc
    · have h1 := (List.mem_filter.1 hc).2
      simp only [decide_eq_true_eq] at h1
      omega
    · have h1 := mem_cells hc
      omega

theorem wf_write {m : Memory α} (h : m.wf) (a : Nat) (v : α) : (m.write a v).wf := wf_writeRange h a [v]

/-- A listed address reads as something. -/
theorem read_ne_none_of_mem {m : Memory α} {c : Nat × α} (h : c ∈ m) : m.read c.1 ≠ none := by
  induction m with
  | nil => simp at h
  | cons d m ih =>
    obtain ⟨k, v⟩ := d
    rw [read_cons]
    split
    · simp
    · next hk =>
      rcases List.mem_cons.1 h with rfl | h
      · simp at hk
      · exact ih h

/-- What an address reads as is listed there. -/
theorem mem_of_read {m : Memory α} {a : Nat} {v : α} (h : m.read a = some v) : (a, v) ∈ m := by
  induction m with
  | nil => simp at h
  | cons d m ih =>
    obtain ⟨k, w⟩ := d
    rw [read_cons] at h
    split at h
    · next hk => subst hk; cases h; simp
    · exact List.mem_cons_of_mem _ (ih h)

/-- Below the first address of a memory in canonical form nothing is listed. -/
theorem read_of_lt {k : Nat} {v : α} {m : Memory α} (h : Memory.wf ((k, v) :: m)) {a : Nat} (ha : a ≤ k) : read m a = none := by
  rw [wf, List.pairwise_cons] at h
  by_contra hne
  obtain ⟨w, hw⟩ := Option.ne_none_iff_exists'.1 hne
  have := h.1 _ (mem_of_read hw)
  simp at this
  omega

/-- Two memories in canonical form that read alike are equal data. -/
theorem ext_of_wf {m n : Memory α} (hm : m.wf) (hn : n.wf) (h : ∀ a, m.read a = n.read a) : m = n := by
  induction m generalizing n with
  | nil =>
    cases n with
    | nil => rfl
    | cons d n => exact absurd (h d.1).symm (by simpa using read_ne_none_of_mem (List.mem_cons_self (a := d) (l := n)))
  | cons c m ih =>
    cases n with
    | nil => exact absurd (h c.1) (by simpa using read_ne_none_of_mem (List.mem_cons_self (a := c) (l := m)))
    | cons d n =>
      obtain ⟨k, v⟩ := c
      obtain ⟨l, w⟩ := d
      have hkl : k = l := by
        rcases Nat.lt_trichotomy k l with hlt | heq | hlt
        · have h1 := h k
          rw [read_cons, read_cons, if_pos rfl, if_neg (by omega), read_of_lt hn (by omega)] at h1
          simp at h1
        · exact heq
        · have h1 := h l
          rw [read_cons, read_cons, if_pos rfl, if_neg (by omega), read_of_lt hm (by omega)] at h1
          simp at h1
      subst hkl
      have hvw : v = w := by
        have h1 := h k
        rw [read_cons, read_cons, if_pos rfl, if_pos rfl] at h1
        exact Option.some.inj h1
      subst hvw
      congr 1
      refine ih (List.pairwise_cons.1 hm).2 (List.pairwise_cons.1 hn).2 fun a => ?_
      have h1 := h a
      rw [read_cons, read_cons] at h1
      by_cases hk : k = a
      · subst hk
        rw [read_of_lt hm (Nat.le_refl _), read_of_lt hn (Nat.le_refl _)]
      · simpa [hk] using h1

end Sys2Proof.Machine.Memory
end

