-- ==== Sys2Proof/Laws/Operands.lean ====
section
/-! SUPPORT. The arithmetic of the operands: clearing one bit of PEND, the geometry LOAD accepts, and the exactness of PIXELS. -/

namespace Sys2Proof.Machine

/-- Clearing bit i of a mask (R176). -/
theorem getLsbD_clearBit (w : Word) (i j : Nat) : (w &&& ~~~(1#32 <<< i)).getLsbD j = (w.getLsbD j && decide (j ≠ i)) := by
  by_cases hj : j < 32
  · simp only [BitVec.getLsbD_and, BitVec.getLsbD_not, BitVec.getLsbD_shiftLeft, hj]
    by_cases h : j < i
    · have : j ≠ i := by omega
      simp [h, this]
    · by_cases h2 : j = i
      · subst h2; simp
      · have : j - i ≠ 0 := by omega
        simp [h, this, h2]
  · rw [BitVec.getLsbD_of_ge _ _ (by omega), BitVec.getLsbD_of_ge _ _ (by omega)]; rfl

/-- A geometry that the signed check of R113 admits is legal as unsigned numbers (R52). -/
theorem geometry_legal {s : State} {w h : Word} (hg : s.geometryOk w h = true) :
    1 ≤ w.toNat ∧ 1 ≤ h.toNat ∧ w.toNat * h.toNat ≤ s.params.maxPixels := by
  simp only [State.geometryOk, decide_eq_true_eq] at hg
  obtain ⟨h1, h2, h3⟩ := hg
  have hw : w.toInt = w.toNat := by rw [BitVec.toInt_eq_toNat_cond] at h1 ⊢; have := w.isLt; split <;> simp_all; omega
  have hh : h.toInt = h.toNat := by rw [BitVec.toInt_eq_toNat_cond] at h2 ⊢; have := h.isLt; split <;> simp_all; omega
  rw [hw] at h1 h3; rw [hh] at h2 h3
  refine ⟨by omega, by omega, by exact_mod_cast h3⟩

/-- Where the invariants hold, the 32-bit product is the exact one (R35). -/
theorem pixels_exact {s : State} (hi : s.stateInv) : s.numPixels = s.width.toNat * s.height.toNat ∧ s.numPixels ≤ s.params.maxPixels := by
  obtain ⟨h1, h2, h3, h4, h5, h6, h7, h8⟩ := hi
  obtain ⟨_, hm, _⟩ := h1
  have hz : s.bindingZero → s.numPixels = s.width.toNat * s.height.toNat ∧ s.numPixels ≤ s.params.maxPixels := by
    intro hz; simp [State.numPixels, State.pixels, hz.1]
  have hg : s.geometryLegal → s.numPixels = s.width.toNat * s.height.toNat ∧ s.numPixels ≤ s.params.maxPixels := by
    intro hg
    have : s.numPixels = s.width.toNat * s.height.toNat := by
      unfold State.numPixels State.pixels
      rw [BitVec.toNat_mul, Nat.mod_eq_of_lt]; have := hg.2.2; omega
    exact ⟨this, by rw [this]; exact hg.2.2⟩
  cases hl : s.lifecycle with
  | unloaded => exact hz (h3 hl)
  | loaded => exact hg (h2 hl)
  | disposed => rcases h4 hl with h | h; exacts [hz h, hg h]

end Sys2Proof.Machine
end

