-- ==== Sys2Proof/Laws/Packer.lean ====
section
/-! SUPPORT. What the packing loop of R132 does, said once: its mask and index, the bits it leaves in a plane byte, and the bytes it
leaves alone. -/

namespace Sys2Proof.Machine

/-- Below 0x2000 the key of a plane byte tells its plane and its index. -/
theorem planeKey_inj {p q b c : Nat} (hb : b < 0x2000) (hc : c < 0x2000) (h : planeKey p b = planeKey q c) : p = q ∧ b = c := by
  unfold planeKey at h; omega

/-- The loop visits the planes 0 to 5. -/
theorem mem_planeIndices {p : Nat} : p ∈ planeIndices ↔ p < 6 := by simp [planeIndices]

/-- The frame PACK reads is RAW[0..N). -/
theorem rawFrame_getD (s : State) {i : Nat} (h : i < s.numPixels) : s.rawFrame.getD i 0#8 = s.rawByte i := by
  simp [State.rawFrame, List.getD_eq_getElem?_getD, h]

/-- What the planes of one pixel leave in a byte at the index of the loop. -/
theorem packBits_read_same {len : Nat} {v mask : Byte} {idx p : Nat} (l : List Nat) (hl : l.Nodup) (m : Memory Byte) :
    (l.foldl (packBit len v mask idx) m).read (planeKey p idx)
      = if p ∈ l ∧ v.getLsbD p = true ∧ idx < len then some ((m.read (planeKey p idx)).getD 0#8 ||| mask) else m.read (planeKey p idx) := by
  induction l generalizing m with
  | nil => simp
  | cons k l ih =>
    rw [List.foldl_cons, ih (List.nodup_cons.1 hl).2]
    have hk := (List.nodup_cons.1 hl).1
    by_cases hpk : p = k
    · subst hpk
      simp only [hk, false_and, if_false, List.mem_cons, true_or, true_and]
      unfold packBit orPlaneByte
      split
      · simp
      · rfl
    · have hne : planeKey k idx ≠ planeKey p idx := by unfold planeKey; omega
      have : (packBit len v mask idx m k).read (planeKey p idx) = m.read (planeKey p idx) := by
        unfold packBit orPlaneByte
        split
        · simp [hne]
        · rfl
      simp [this, hpk]

/-- The planes of one pixel leave every other byte alone. -/
theorem packBits_read_other {len : Nat} {v mask : Byte} {idx a : Nat} (l : List Nat) (m : Memory Byte)
    (h : idx < len → ∀ k ∈ l, planeKey k idx ≠ a) : (l.foldl (packBit len v mask idx) m).read a = m.read a := by
  induction l generalizing m with
  | nil => rfl
  | cons k l ih =>
    rw [List.foldl_cons, ih _ (fun hi k hk => h hi k (List.mem_cons_of_mem _ hk))]
    unfold packBit orPlaneByte
    split
    · next hc => simp [h hc.2 k (by simp)]
    · rfl

/-- The plane bank after one pixel. -/
theorem packPixel_plane (len : Nat) (st : PackLoop) (v : Byte) :
    (packPixel len st v).plane = planeIndices.foldl (packBit len v st.mask st.idx) st.plane := by
  unfold packPixel; simp only; split <;> rfl

/-- One pixel: bits 6 and 7 are ignored (R134). -/
theorem packPixel_mask (len : Nat) (st : PackLoop) (v : Byte) : packPixel len st (v &&& 0x3F#8) = packPixel len st v := by
  have h : ∀ k < 6, (v &&& 0x3F#8).getLsbD k = v.getLsbD k := by
    intro k hk
    have : ∀ k < 6, (0x3F#8).getLsbD k = true := by decide
    rw [BitVec.getLsbD_and, this k hk, Bool.and_true]
  have : ∀ m, planeIndices.foldl (packBit len (v &&& 0x3F#8) st.mask st.idx) m = planeIndices.foldl (packBit len v st.mask st.idx) m := by
    intro m
    apply List.foldl_ext
    intro m k hk
    unfold packBit
    rw [h k (mem_planeIndices.1 hk)]
  unfold packPixel
  simp only [this]

/-- While pixel i is processed the mask is 1 << (i mod 8) and the index is floor(i / 8) (R133). -/
theorem pack_mask_idx (len : Nat) (frame : List Byte) (m : Memory Byte) :
    (frame.foldl (packPixel len) ⟨Config.packInitialMask, 0, m⟩).idx = frame.length / 8
    ∧ (frame.foldl (packPixel len) ⟨Config.packInitialMask, 0, m⟩).mask = 1#8 <<< (frame.length % 8) := by
  induction frame using List.reverseRecOn with
  | nil => simp
  | append_singleton l v ih =>
    rw [List.foldl_append, List.foldl_cons, List.foldl_nil]
    generalize hst : l.foldl (packPixel len) ⟨Config.packInitialMask, 0, m⟩ = st at ih
    obtain ⟨h1, h2⟩ := ih
    unfold packPixel
    rw [List.length_append, List.length_singleton]
    have hmod : l.length % 8 < 8 := Nat.mod_lt _ (by decide)
    have key : ∀ k < 8, (1#8 <<< k = Config.packWrapMask ↔ k = 7) := by decide
    simp only
    by_cases h : l.length % 8 = 7
    · rw [if_pos (by rw [h2]; exact (key _ hmod).2 h)]
      have h3 : (l.length + 1) % 8 = 0 := by omega
      rw [h3]
      exact ⟨by simp only; omega, by simp⟩
    · rw [if_neg (by rw [h2]; exact fun hc => h ((key _ hmod).1 hc))]
      have h3 : (l.length + 1) % 8 = l.length % 8 + 1 := by omega
      rw [h3, h1, h2]
      exact ⟨by omega, by rw [BitVec.shiftLeft_add]⟩

/-- Zeroing leaves every byte outside the planes alone. -/
theorem packZero_read_other (len : Nat) (m : Memory Byte) (a : Nat) (h : ∀ p < 6, ∀ b < len, a ≠ planeKey p b) :
    (packZero len m).read a = m.read a := by
  unfold packZero
  have : ∀ k ∈ planeIndices, k < 6 := by decide
  generalize planeIndices = l at this ⊢
  induction l generalizing m with
  | nil => rfl
  | cons k l ih =>
    rw [List.foldl_cons, ih _ (fun k hk => this k (List.mem_cons_of_mem _ hk))]
    apply Memory.read_writeRange_out
    simp only [List.length_replicate]
    by_contra hc
    have := h k (this k (by simp)) (a - planeKey k 0) (by omega)
    unfold planeKey at *; omega

/-- Zeroing one plane. -/
theorem read_zeroPlane (len : Nat) (m : Memory Byte) (k x : Nat) :
   (m.writeRange (planeKey k 0) (List.replicate len 0#8)).read x = if planeKey k 0 ≤ x ∧ x < planeKey k 0 + len then some 0#8 else m.read x := by
  rw [Memory.read_writeRange, List.length_replicate]
  split
  · rw [List.getElem?_replicate, if_pos (by omega)]
  · rfl

/-- Zeroing leaves every plane byte 0 (R131). -/
theorem packZero_read (len : Nat) (m : Memory Byte) {p b : Nat} (hp : p < 6) (hb : b < len) :
    (packZero len m).read (planeKey p b) = some 0#8 := by
  unfold packZero
  have hm : p ∈ planeIndices := by simp [planeIndices, hp]
  generalize planeIndices = l at hm ⊢
  have stable : ∀ (l : List Nat) (m : Memory Byte), m.read (planeKey p b) = some 0#8 →
      (l.foldl (fun m p => m.writeRange (planeKey p 0) (List.replicate len 0#8)) m).read (planeKey p b) = some 0#8 := by
    intro l
    induction l with
    | nil => intro m h; exact h
    | cons k l ih =>
      intro m h
      refine ih _ ?_
      rw [read_zeroPlane]; split
      · rfl
      · exact h
  induction l generalizing m with
  | nil => simp at hm
  | cons k l ih =>
    rw [List.foldl_cons]
    by_cases hk : p = k
    · subst hk
      apply stable
      rw [read_zeroPlane, if_pos]; unfold planeKey; omega
    · exact ih _ (by simpa [hk] using hm)

/-- What the loop leaves in a plane byte: bit j is bit p of pixel 8b + j, a pixel past the frame counting as 0. -/
theorem packFrame_bits (len : Nat) (hlen : len ≤ 0x2000) (frame : List Byte) (m : Memory Byte) {p b : Nat} (hp : p < 6) (hb : b < len) :
    ∃ w, (packFrame len frame m).read (planeKey p b) = some w ∧
      ∀ j < 8, w.getLsbD j = (frame.getD (8 * b + j) 0#8).getLsbD p := by
  unfold packFrame
  induction frame using List.reverseRecOn with
  | nil => exact ⟨0#8, by simpa using packZero_read len m hp hb, by simp⟩
  | append_singleton l v ih =>
    obtain ⟨w, hw, hbits⟩ := ih
    obtain ⟨hidx, hmask⟩ := pack_mask_idx len l (packZero len m)
    rw [List.foldl_append, List.foldl_cons, List.foldl_nil]
    generalize hst : l.foldl (packPixel len) ⟨Config.packInitialMask, 0, packZero len m⟩ = st at *
    rw [packPixel_plane]
    have hget : ∀ j < 8, (l ++ [v]).getD (8 * b + j) 0#8 = if 8 * b + j = l.length then v else l.getD (8 * b + j) 0#8 := by
      intro j _
      simp only [List.getD_eq_getElem?_getD, List.getElem?_append]
      split
      · rw [if_neg (by omega)]
      · split
        · simp_all
        · rw [List.getElem?_eq_none (by simp; omega), List.getElem?_eq_none (by omega)]
    by_cases hbi : b = st.idx
    · subst hbi
      rw [packBits_read_same _ (by decide)]
      simp only [mem_planeIndices, hp, true_and, hb, and_true]
      by_cases hv : v.getLsbD p = true
      · rw [if_pos hv]
        refine ⟨_, rfl, fun j hj => ?_⟩
        rw [hget j hj, hw, hmask]
        simp only [Option.getD_some, BitVec.getLsbD_or, BitVec.getLsbD_shiftLeft]
        by_cases hj8 : j = l.length % 8
        · have h1 : 8 * st.idx + j = l.length := by omega
          subst hj8
          simp [h1, hv, hj]
        · have h1 : 8 * st.idx + j ≠ l.length := by omega
          rw [if_neg h1, hbits j hj]
          have : (decide (j < 8) && !decide (j < l.length % 8) && (1#8).getLsbD (j - l.length % 8)) = false := by
            by_cases h2 : j < l.length % 8
            · simp [h2]
            · have : j - l.length % 8 ≠ 0 := by omega
              simp [this]
          rw [this]; simp
      · rw [if_neg hv]
        refine ⟨w, hw, fun j hj => ?_⟩
        rw [hget j hj, hbits j hj]
        split
        · next h1 =>
          have : l.getD (8 * st.idx + j) 0#8 = 0#8 := by rw [List.getD_eq_getElem?_getD, List.getElem?_eq_none (by omega)]; rfl
          rw [this]; simp at hv; simp [hv]
        · rfl
    · rw [packBits_read_other]
      · refine ⟨w, hw, fun j hj => ?_⟩
        rw [hget j hj, if_neg (by omega)]
        exact hbits j hj
      · intro hi k _ heq
        exact hbi (planeKey_inj (by omega) (by omega) heq).2.symm

/-- PACK leaves every byte outside the planes alone (R130). -/
theorem packFrame_read_other (len : Nat) (frame : List Byte) (m : Memory Byte) (a : Nat) (h : ∀ p < 6, ∀ b < len, a ≠ planeKey p b) :
   (packFrame len frame m).read a = m.read a := by
  unfold packFrame
  induction frame using List.reverseRecOn with
  | nil => exact packZero_read_other _ _ _ h
  | append_singleton l v ih =>
    rw [List.foldl_append, List.foldl_cons, List.foldl_nil, packPixel_plane, packBits_read_other, ih]
    intro hi k hk heq
    exact h k (mem_planeIndices.1 hk) _ hi heq.symm

/-- PACK writes every plane byte (R139). -/
theorem packFrame_read_ne_none (len : Nat) (frame : List Byte) (m : Memory Byte) {p b : Nat} (hp : p < 6) (hb : b < len) :
   (packFrame len frame m).read (planeKey p b) ≠ none := by
  unfold packFrame
  induction frame using List.reverseRecOn with
  | nil => simp [packZero_read len m hp hb]
  | append_singleton l v ih =>
    rw [List.foldl_append, List.foldl_cons, List.foldl_nil, packPixel_plane]
    generalize l.foldl (packPixel len) _ = st at ih ⊢
    have : ∀ (l : List Nat) (m : Memory Byte), m.read (planeKey p b) ≠ none → (l.foldl (packBit len v st.mask st.idx) m).read (planeKey p b) ≠ none := by
      intro l
      induction l with
      | nil => intro m h; exact h
      | cons k l ih =>
        intro m h; refine ih _ ?_
        unfold packBit orPlaneByte
        split
        · rw [Memory.read_write]; split <;> simp_all
        · exact h
    exact this _ _ ih

/-- The bits of a sum of eight shifted bits. -/
theorem shiftedBits_getLsbD : ∀ b0 b1 b2 b3 b4 b5 b6 b7 : Bool, ∀ j : Fin 8,
   (BitVec.ofNat 8 ([b0.toNat <<< 0, b1.toNat <<< 1, b2.toNat <<< 2, b3.toNat <<< 3, b4.toNat <<< 4, b5.toNat <<< 5, b6.toNat <<< 6, b7.toNat <<< 7].sum)).getLsbD j.1
    = [b0, b1, b2, b3, b4, b5, b6, b7].getD j.1 false := by decide

/-- The bits of the closed form of R133. -/
theorem packedByte_bit (pixel : Nat → Byte) (p b : Nat) : ∀ j < 8, (packedByte pixel p b).getLsbD j = (pixel (8 * b + j)).getLsbD p := by
  intro j hj
  have h := shiftedBits_getLsbD ((pixel (8*b+0)).getLsbD p) ((pixel (8*b+1)).getLsbD p) ((pixel (8*b+2)).getLsbD p) ((pixel (8*b+3)).getLsbD p)
    ((pixel (8*b+4)).getLsbD p) ((pixel (8*b+5)).getLsbD p) ((pixel (8*b+6)).getLsbD p) ((pixel (8*b+7)).getLsbD p) ⟨j, hj⟩
  refine Eq.trans h ?_
  clear h
  interval_cases j <;> rfl

/-- PACK keeps the plane bank in its canonical form. -/
theorem packFrame_wf (len : Nat) (frame : List Byte) (m : Memory Byte) (h : m.wf) : (packFrame len frame m).wf := by
  have hz : (packZero len m).wf := by
    unfold packZero
    generalize planeIndices = l
    induction l generalizing m with
    | nil => exact h
    | cons k l ih => exact ih _ (Memory.wf_writeRange h _ _)
  have hb : ∀ (l : List Nat) (v mask : Byte) (idx : Nat) (m : Memory Byte), m.wf → (l.foldl (packBit len v mask idx) m).wf := by
    intro l v mask idx
    induction l with
    | nil => intro m h; exact h
    | cons k l ih =>
      intro m h
      refine ih _ ?_
      unfold packBit orPlaneByte
      split
      · exact Memory.wf_write h _ _
      · exact h
  unfold packFrame
  induction frame using List.reverseRecOn with
  | nil => exact hz
  | append_singleton l v ih =>
    rw [List.foldl_append, List.foldl_cons, List.foldl_nil, packPixel_plane]
    exact hb _ _ _ _ _ ih

/-- A cell of the plane bank after PACK is a plane byte below L, or was there before. -/
theorem mem_packFrame {len : Nat} {frame : List Byte} {m : Memory Byte} {c : Nat × Byte} (h : c ∈ packFrame len frame m) :
    (∃ p < 6, ∃ b < len, c.1 = planeKey p b) ∨ m.read c.1 ≠ none := by
  by_contra hc
  push Not at hc
  have h1 := packFrame_read_other len frame m c.1 (fun p hp b hb => hc.1 p hp b hb)
  exact Memory.read_ne_none_of_mem h (h1.trans hc.2)

end Sys2Proof.Machine
end

