-- ==== Sys2Proof/Laws/PerInstr.lean ====
section
/-! SUPPORT. What is said of every command as syntax, one lemma per command. -/

namespace Sys2Proof.Laws.Encoding

/-- The command is well formed, its word has its opcode in OPC and 0 in RSV (R90, R92), and the word decodes to it. -/
def Statement (i : Instr) : Prop :=
  i.wf = true ∧ opcField (encode i) = opcode i ∧ rsvField (encode i) = 0#24 ∧ decodeWord (encode i) = .command i

theorem load : Statement .load := by unfold Statement; decide

theorem colorize : Statement .colorize := by unfold Statement; decide

theorem dispose : Statement .dispose := by unfold Statement; decide

end Sys2Proof.Laws.Encoding
end

