-- ==== Sys2Proof/Laws/Run.lean ====
section
/-! SUPPORT. Runs of the machine, cut into steps. -/

namespace Sys2Proof.Machine

/-- A run whose first step answers a next state. -/
theorem run_succ (k : Nat) (s t : State) (h : step s = .next t) : Host.Core.run Sys2Proof.core (k+1) s = Host.Core.run Sys2Proof.core k t := by
  rw [show Host.Core.run Sys2Proof.core (k+1) s = _ from Host.Core.run.eq_2 Sys2Proof.core s k]
  rw [show Sys2Proof.core.step s = _ from h]

/-- A run whose first step stops has no next state. -/
theorem run_stop (k : Nat) (s : State) (h : ∀ t, step s ≠ .next t) (u : State) : Host.Core.run Sys2Proof.core (k+1) s ≠ .next u := by
  rw [show Host.Core.run Sys2Proof.core (k+1) s = _ from Host.Core.run.eq_2 Sys2Proof.core s k]
  cases hs : step s with
  | next t => exact absurd hs (h t)
  | fault r => rw [show Sys2Proof.core.step s = _ from hs]; exact fun hc => by cases hc
  | refused r => rw [show Sys2Proof.core.step s = _ from hs]; exact fun hc => by cases hc

/-- A run in two parts. -/
theorem run_add (k m : Nat) (s t : State) (h : Host.Core.run Sys2Proof.core k s = .next t) :
   Host.Core.run Sys2Proof.core (k+m) s = Host.Core.run Sys2Proof.core m t := by
  induction k generalizing s with
  | zero =>
    have : s = t := by
      have h' : (Host.Outcome.next s : Host.Outcome State Fault Refusal) = .next t := h
      cases h'; rfl
    rw [this, Nat.zero_add]
  | succ k ih =>
    by_cases hs : ∃ u, step s = .next u
    · obtain ⟨u, hu⟩ := hs
      rw [run_succ _ _ _ hu] at h
      rw [Nat.succ_add, run_succ _ _ _ hu]
      exact ih _ h
    · exact absurd h (run_stop k s (fun t ht => hs ⟨t, ht⟩) t)

end Sys2Proof.Machine
end

