-- ==== Sys2Proof/Tests/Slice0.lean ====
section
/-! SUPPORT. The model's own tests. Expected values are those of 95_test_vectors.md and of the rules' own examples; each test names
the vector. Then one witness for the hypotheses of each statement of Certificates/Slice0/Obligations.lean. -/

namespace Sys2Proof.Tests

open Sys2Proof.Machine

/-! ### Helpers -/

/-- The state after one step that is given, if it is a next state. -/
def after (s : State) (e : Event) : Option State :=
  match step (s.withNext e) with
  | .next t => some t
  | .fault _ => none
  | .refused _ => none

/-- STATUS after one step. -/
def statusAfter (s : State) (e : Event) : Option Word := (after s e).map State.status

/-- The bus answer of one step. -/
def replyTo (s : State) (e : Event) : Option Reply := (after s e).map State.reply

/-- Reset with MAX_PIXELS = 4096 and N_SUB = 2. -/
def fresh : State := State.resetWith ⟨4096, 2⟩

/-- LOADED, 8 × 2, COLOR_COUNT = 4, IN_COUNT = 16 (LD2). -/
def loaded : State :=
  { fresh with lifecycle := .loaded, width := 8#32, height := 2#32, colorCount := 4#32, inCount := 16#32 }

/-- LOADED, 8 × 1, before STAGES, with the given engine answer. -/
def staging (raw pal rot : List Byte) : State :=
  { fresh with lifecycle := .loaded, width := 8#32, height := 1#32, colorCount := 4#32, inCount := 8#32, phase := .stages,
               raw := Memory.writeRange [] 0 raw, palStage := Memory.writeRange [] 0 pal,
               rotStage := Memory.writeRange [] 0 rot }

/-- The planes of an 8-pixel frame, one byte each. -/
def planesOf8 (raw : List Byte) : List (Option Byte) :=
  planeIndices.map fun p => (packFrame 1 raw []).read (planeKey p 0)

/-! ### Well-formedness: each check refuses an ill-formed term -/

theorem test_params_max_pixels_too_small : ¬ (⟨8, 1⟩ : Config.Params).wf := by decide
theorem test_params_max_pixels_too_large : ¬ (⟨65544, 1⟩ : Config.Params).wf := by decide
theorem test_params_max_pixels_not_multiple_of_8 : ¬ (⟨20, 1⟩ : Config.Params).wf := by decide
theorem test_params_no_subscriber_port : ¬ (⟨16, 0⟩ : Config.Params).wf := by decide
theorem test_params_too_many_subscriber_ports : ¬ (⟨16, 33⟩ : Config.Params).wf := by decide
theorem test_params_at_the_bounds : (⟨16, 1⟩ : Config.Params).wf ∧ (⟨65536, 32⟩ : Config.Params).wf := by decide
/-- A command has no field, so no command is ill-formed (R90). -/
theorem test_every_command_well_formed : Instr.wf .load ∧ Instr.wf .colorize ∧ Instr.wf .dispose := by decide

/-! ### Decoding: words written out from R90 and R92 -/

theorem test_decode_load : decodeWord 0b00000000000000000000000000000001#32 = .command .load := by decide
theorem test_decode_colorize : decodeWord 0b00000000000000000000000000000010#32 = .command .colorize := by decide
theorem test_decode_dispose : decodeWord 0b00000000000000000000000000000011#32 = .command .dispose := by decide
/-- CZ12. -/
theorem test_decode_reserved : decodeWord 0x00000004#32 = .reservedOpcode 4#8 ∧ decodeWord 0x00000101#32 = .reservedBits 1#24 := by
  decide
theorem test_decode_table_word : decodeTableWord 32 0x00000002 = some .colorize ∧ decodeTableWord 32 0x00000100 = none := by decide

/-! ### The commands, one step each -/

/-- R111's example: from reset, CMD LOAD leaves STATUS = 0x00000004. -/
theorem test_load_accepted : statusAfter fresh (.cmd .load) = some 0x00000004#32 := by decide
/-- LD10. -/
theorem test_load_when_loaded : statusAfter loaded (.cmd .load) = some 0x00010401#32 := by decide
/-- CZ1. -/
theorem test_colorize_when_unloaded : statusAfter fresh (.cmd .colorize) = some 0x00010200#32 := by decide
/-- CZ3: IN_COUNT = 0x110 is no match for PIXELS = 16. -/
theorem test_colorize_dimension_mismatch :
    statusAfter { loaded with inCount := 0x110#32 } (.cmd .colorize) = some 0x00010701#32 := by decide
/-- DS1. -/
theorem test_dispose_when_unloaded : statusAfter fresh (.cmd .dispose) = some 0x00000002#32 := by decide
/-- DS3. -/
theorem test_dispose_when_disposed :
    statusAfter { fresh with lifecycle := .disposed } (.cmd .dispose) = some 0x00010302#32 := by decide
/-- CZ13: decode comes before the lifecycle check. -/
theorem test_illegal_before_disposed :
    statusAfter { fresh with lifecycle := .disposed } (.cmdWord 7#32) = some 0x00010102#32 := by decide
/-- CZ8, P2 step 11. -/
theorem test_command_while_busy :
    statusAfter { loaded with phase := .engineWait, colorCount := 16#32, err := .dim } (.cmd .colorize)
      = some 0x00020715#32 := by decide
/-- The first step after reset runs the command (R80, log 3). -/
theorem test_first_command_after_reset :
    (match step (State.reset.withFetchWord 32 1) with
      | .next t => t.phase
      | .fault _ => .idle
      | .refused _ => .idle) = .loadWait := by decide

/-! ### The engine's answers -/

/-- LD1. -/
theorem test_load_answer_ok :
    statusAfter { fresh with phase := .loadWait } (.engLoad true 128#32 32#32 16#32) = some 0x00000011#32 := by decide
/-- LD3. -/
theorem test_load_answer_fail :
    statusAfter { fresh with phase := .loadWait } (.engLoad false 8#32 2#32 16#32) = some 0x00010500#32 := by decide
/-- LD6: the product is 2^32 and is not wrapped to 0. -/
theorem test_load_answer_product_exact :
    statusAfter { fresh with phase := .loadWait } (.engLoad true 65536#32 65536#32 4#32) = some 0x00010600#32 := by decide
/-- LD5: a negative width. -/
theorem test_load_answer_negative :
    statusAfter { fresh with phase := .loadWait } (.engLoad true 0xFFFFFFFF#32 4#32 4#32) = some 0x00010600#32 := by decide
/-- DS2. -/
theorem test_dispose_answer :
    statusAfter { loaded with phase := .disposeWait } .engDispose = some 0x00000002#32 := by decide

/-! ### The stages -/

/-- PK1. -/
theorem test_pack_lsb_first :
    planesOf8 [0x00, 0x01, 0x02, 0x03, 0x04, 0x05, 0x06, 0x07]
      = [some 0xAA, some 0xCC, some 0xF0, some 0x00, some 0x00, some 0x00] := by decide
/-- PK3. -/
theorem test_pack_last_pixel_and_high_bits :
    planesOf8 [0x00, 0x00, 0x00, 0x00, 0x00, 0x00, 0x00, 0xFF] = List.replicate 6 (some 0x80) := by decide
/-- PK7: pixel 8 is dropped. -/
theorem test_pack_partial_group :
    planesOf8 (List.replicate 9 0x01) = [some 0xFF, some 0x00, some 0x00, some 0x00, some 0x00, some 0x00]
      ∧ (packFrame 1 (List.replicate 9 0x01) []).read (planeKey 0 1) = none := by decide
/-- PK6: pixel 9 is bit 1 of byte 1. -/
theorem test_pack_second_byte :
    (packFrame 2 (List.replicate 9 0x00 ++ [0x20] ++ List.replicate 6 0x00) []).read (planeKey 5 1) = some 0x02 := by decide
/-- PM1. -/
theorem test_marshal_word :
    replyTo (marshal { fresh with palStage := Memory.writeRange [] 0 [0x12, 0x34, 0x56] }) (.hostRead 4 0x01000)
      = some (.data 0xFF563412#32) := by decide
/-- RB1 and RB2: an active entry and an inactive one. -/
theorem test_rotation_words :
    (rotBuild { fresh with rotStage := Memory.writeRange [] 0 [0x05, 0x03, 0x0A, 0x07, 0x00, 0x09] }).rot.read 1
      = some ⟨7, 0, 9⟩
    ∧ replyTo (rotBuild { fresh with rotStage := Memory.writeRange [] 0 [0x05, 0x03, 0x0A] }) (.hostRead 4 0x01100)
      = some (.data 0x010A0305#32) := by decide

/-! ### The bus and the registers -/

/-- CZ14. -/
theorem test_bus_errors :
    replyTo loaded (.hostRead 2 0x00004) = some .busError ∧ replyTo loaded (.hostWrite 1 0x00008 1#32) = some .busError
      ∧ replyTo loaded (.hostRead 4 0x10002) = some .busError := by decide
/-- R210, R67: a subscriber's byte read at 0x00004, outside its view, and a misaligned one inside it. -/
theorem test_subscriber_bus_errors :
    replyTo loaded (.subRead 0 1 0x00004) = some .busError ∧ replyTo loaded (.subRead 1 4 0x01002) = some .busError := by decide
/-- R96: a waiting host takes no later step of its own. -/
theorem test_wait_holds_back_the_host :
    (after { loaded with phase := .engineWait, script := [.hostWrite 4 0x0001C 3#32] } .wait).map State.script
      = some [.block, .wait, .hostWrite 4 0x0001C 3#32] := by decide
/-- CZ15. -/
theorem test_reserved_offset : replyTo loaded (.hostRead 4 0x00800) = some (.data 0#32) := by decide
/-- CZ18: N_SUB = 2. -/
theorem test_sub_enable_masked :
    (after fresh (.hostWrite 4 0x00024 0xFFFFFFFF#32)).map State.subEnable = some 3#32 := by decide
/-- CZ19. -/
theorem test_clear_error :
    statusAfter { loaded with err := .dim, errSticky := true } .clrErr = some 0x00000701#32 := by decide
/-- PK11: little-endian. -/
theorem test_plane_read_little_endian :
    replyTo { loaded with plane := [(0x6000, 0x00), (0x6001, 0xFF)] } (.hostRead 2 0x26000) = some (.data 0xFF00#32) := by decide
/-- P4 step 6: bytes at and above L read 0. -/
theorem test_plane_read_above_length :
    replyTo { loaded with width := 3#32, height := 3#32, plane := [(0, 0x15)] } (.hostRead 4 0x20000)
      = some (.data 0x15#32) := by decide
/-- R241: IN byte 0 has not been written. -/
theorem test_unwritten_read_faults :
    (match step (fresh.withNext (.hostRead 1 0x10000)) with
      | .fault r => some r
      | .next _ => none
      | .refused _ => none) = some (.unwrittenRead 0x10000) := by decide
/-- P4 step 9. -/
theorem test_input_read_little_endian :
    replyTo { fresh with inp := [(2, 0x05), (3, 0x0A)] } (.hostRead 2 0x10002) = some (.data 0x0A05#32) := by decide

/-! ### Witnesses: states and operands that meet the hypotheses of each statement together -/

/-- Eight pixels, the palette bytes k and one active rotation (P1 step 11). -/
def raw8 : List Byte := [0x00, 0x01, 0x02, 0x03, 0x04, 0x05, 0x06, 0x07]
def pal192 : List Byte := (List.range 192).map fun k => BitVec.ofNat 8 k
def rot24 : List Byte := [0x05, 0x03, 0x0A] ++ List.replicate 21 0x00

/-- A published Colored Frame, both subscribers pending. -/
def published : State := { stagesStep (staging raw8 pal192 rot24) with subEnable := 3#32, pend := 3#32 }

theorem witness_DecodeOfEncodeIsTheCommand : Instr.wf .load = true ∧ Instr.wf .colorize = true ∧ Instr.wf .dispose = true := by decide

theorem witness_IllegalWordEndsWithIllegalCmd :
    (fresh.busy = false ∧ (0x00000101#32).extractLsb' 8 24 ≠ 0#24)
    ∧ (fresh.busy = false ∧ (4#32).extractLsb' 0 8 ≠ 1#8 ∧ (4#32).extractLsb' 0 8 ≠ 2#8 ∧ (4#32).extractLsb' 0 8 ≠ 3#8)
    ∧ State.busy { loaded with phase := .copy } = true := by decide

theorem witness_StepPerformsTheNextAgentStep : fresh.script = [] ∧ fresh.blockEnabled = false := by decide

theorem witness_StepRunsTheDecodedCommand :
    decodeWord 1#32 = .command .load ∧ decodeWord 2#32 = .command .colorize ∧ decodeWord 3#32 = .command .dispose := by decide

theorem witness_LoadAcceptance :
    (fresh.busy = false ∧ fresh.lifecycle = .unloaded) ∧ (loaded.busy = false ∧ loaded.lifecycle = .loaded)
    ∧ (State.busy { fresh with lifecycle := .disposed } = false
      ∧ State.lifecycle { fresh with lifecycle := .disposed } = .disposed) := by decide

theorem witness_DisposeAcceptance :
    (loaded.busy = false ∧ loaded.lifecycle = .loaded) ∧ (fresh.busy = false ∧ fresh.lifecycle = .unloaded)
    ∧ (State.busy { fresh with lifecycle := .disposed } = false
      ∧ State.lifecycle { fresh with lifecycle := .disposed } = .disposed) := by decide

theorem witness_ColorizeAcceptance :
    (loaded.busy = false ∧ loaded.lifecycle = .loaded ∧ loaded.inCount = loaded.readReg .pixels)
    ∧ (State.lifecycle { loaded with inCount := 15#32 } = .loaded
      ∧ State.inCount { loaded with inCount := 15#32 } ≠ State.readReg { loaded with inCount := 15#32 } .pixels)
    ∧ (fresh.busy = false ∧ fresh.lifecycle = .unloaded) := by decide

theorem witness_CommandFrame :
    (∃ t, exec .load fresh = .next t ∧ fresh.busy = false)
    ∧ (∃ t, exec .colorize loaded = .next t ∧ loaded.busy = false)
    ∧ (∃ t, exec .dispose loaded = .next t ∧ loaded.busy = false)
    ∧ ∃ t, exec .dispose { loaded with phase := .copy } = .next t ∧ State.busy { loaded with phase := .copy } = true :=
  ⟨⟨_, rfl, by decide⟩, ⟨_, rfl, by decide⟩, ⟨_, rfl, by decide⟩, ⟨_, rfl, by decide⟩⟩

theorem witness_OneErrorInThePriorityOrder :
    (fresh.busy = false ∧ (7#32 : Word) ≠ 1#32 ∧ (7#32 : Word) ≠ 2#32 ∧ (7#32 : Word) ≠ 3#32)
    ∧ (loaded.busy = false ∧ loaded.lifecycle = .loaded) ∧ (fresh.busy = false ∧ fresh.lifecycle = .unloaded)
    ∧ State.phase { fresh with phase := .loadWait } = .loadWait
    ∧ ((0#32 : Word).toInt < 1 ∧ (2#32 : Word).toInt ≥ 1)
    ∧ (4096 : Int) < (4097#32 : Word).toInt * (1#32 : Word).toInt := by decide

theorem witness_ErrorsChangeOnlyTheErrorFields :
    (∃ t, exec .load loaded = .next t ∧ loaded.busy = false ∧ t.phase = .idle ∧ t.err ≠ .ok)
    ∧ ∃ t, step (State.withNext { fresh with phase := .loadWait } (.engLoad false 8#32 2#32 4#32)) = .next t ∧ t.err ≠ .ok :=
  ⟨⟨_, rfl, by decide⟩, ⟨_, rfl, by decide⟩⟩

/-- The bounds of R113: 1 × MAX_PIXELS is accepted (LD7), 1 × (MAX_PIXELS + 1) is not (LD8), 0 is not (LD4). -/
theorem witness_LoadAnswerCompletesLoad :
    State.phase { fresh with phase := .loadWait } = .loadWait
    ∧ (1 ≤ (1#32 : Word).toInt ∧ 1 ≤ (4096#32 : Word).toInt ∧ (1#32 : Word).toInt * (4096#32 : Word).toInt ≤ fresh.params.maxPixels)
    ∧ (fresh.params.maxPixels : Int) < (1#32 : Word).toInt * (4097#32 : Word).toInt
    ∧ (0#32 : Word).toInt < 1 := by decide

theorem witness_DisposeAnswerCompletesDispose :
    State.phase { loaded with phase := .disposeWait } = .disposeWait := by decide

theorem witness_LifecycleMovesForwardOnly :
    ∃ t, step (State.withNext { fresh with phase := .loadWait } (.engLoad true 8#32 2#32 4#32)) = .next t
      ∧ (State.withNext { fresh with phase := .loadWait } (.engLoad true 8#32 2#32 4#32)).stateInv ∧ t.lifecycle = .loaded :=
  ⟨_, rfl, by decide, by decide⟩

theorem witness_BindingWrittenOnlyBySuccessfulLoad :
    ∃ t, step (State.withNext { fresh with phase := .loadWait } (.engLoad true 8#32 2#32 4#32)) = .next t ∧ t.width = 8#32 :=
  ⟨_, rfl, by decide⟩

theorem witness_AtMostOneUnchangingEngineRequest :
    (∃ t, step (State.withNext { loaded with phase := .disposeWait } .engDispose) = .next t
      ∧ (State.withNext { loaded with phase := .disposeWait } .engDispose).engineRequest ≠ none)
    ∧ (State.stateInv { fresh with lifecycle := .disposed } ∧ State.lifecycle { fresh with lifecycle := .disposed } = .disposed) :=
  ⟨⟨_, rfl, by decide⟩, by decide⟩

/-- One state for each clause: the host reads STATUS while the block waits for a peer. -/
theorem witness_StallsHaveNoTimeLimit :
    (∀ ph ∈ [Phase.loadWait, .engineWait, .disposeWait],
      ∃ t, step (State.withNext { loaded with phase := ph } (.hostRead 4 0x00004)) = .next t ∧ t.phase = ph)
    ∧ (∃ t, step (State.withNext { loaded with phase := .publish, pend := 3#32 } (.ack 1)) = .next t ∧ t.pend = 1#32)
    ∧ ¬ State.resetNext (State.withNext { loaded with phase := .publish, pend := 3#32 } (.ack 1))
    ∧ (3#32 : Word) ≠ 0#32 ∧ (3#32 : Word).getLsbD 0 = true := by
  refine ⟨fun ph hp => ?_, ⟨_, rfl, by decide⟩, fun h => ?_, by decide, by decide⟩
  · exact ⟨_, rfl, rfl⟩
  · obtain ⟨rest, h⟩ := h
    cases h

theorem witness_CopyFillsRawFromInput :
    State.phase { loaded with phase := .copy, inp := [(15, 0x03)] } = .copy
    ∧ 15 < State.numPixels { loaded with phase := .copy, inp := [(15, 0x03)] }
    ∧ State.numPixels { loaded with phase := .copy, inp := [(15, 0x03)] } ≤ 16
    ∧ Memory.read (State.inp { loaded with phase := .copy, inp := [(15, 0x03)] }) 15 = some 0x03 := by decide

theorem witness_ColorizeAnswerWritesEngineSpace :
    State.phase { loaded with phase := .engineWait, height := 1#32 } = .engineWait
    ∧ raw8.length = State.numPixels { loaded with phase := .engineWait, height := 1#32 }
    ∧ pal192.length = 192 ∧ rot24.length = 24 := by decide +kernel

theorem witness_StagesRunTheThreeBuildersAndPublish : (staging raw8 pal192 rot24).phase = .stages := by decide

/-- The last byte of the last plane of an 8 × 2 frame, and the largest plane. -/
theorem witness_PackLoopHasTheClosedForm :
    (loaded.planeLen ≤ 0x2000 ∧ 5 < 6 ∧ 1 < loaded.planeLen ∧ ¬ 2 < loaded.planeLen)
    ∧ State.planeLen { loaded with width := 256#32, height := 256#32 } = 0x2000 := by decide

/-- Byte L of plane 0 is no plane byte. -/
theorem witness_PackWritesOnlyThePlanes : ∀ p < 6, ∀ b < loaded.planeLen, (2 : Nat) ≠ planeKey p b := by decide

theorem witness_FinalPartialGroupIsDropped :
    State.pixels { loaded with width := 3#32, height := 3#32, raw := [(8, 0x3F)] }
      = State.pixels { loaded with width := 3#32, height := 3#32 }
    ∧ ∀ i < 8 * State.planeLen { loaded with width := 3#32, height := 3#32 },
      State.rawByte { loaded with width := 3#32, height := 3#32, raw := [(8, 0x3F)] } i
        = State.rawByte { loaded with width := 3#32, height := 3#32 } i := by
  refine ⟨rfl, fun i hi => ?_⟩
  have h : 8 * State.planeLen { loaded with width := 3#32, height := 3#32 } = 8 := by decide
  have h8 : (8 : Nat) ≠ i := by omega
  simp [State.rawByte, Memory.read, loaded, fresh, State.resetWith, h8]

theorem witness_AcknowledgementClearsItsBit :
    (published.phase = .publish ∧ published.pend.getLsbD 1 = true ∧ published.pend.getLsbD 2 = false)
    ∧ loaded.phase ≠ .publish := by decide

theorem witness_CompletionCountsThePublish :
    State.phase { published with pend := 0#32 } = .publish ∧ State.pend { published with pend := 0#32 } = 0#32
    ∧ ∃ t, step (State.withNext { published with pend := 0#32 } .block) = .next t ∧ t.frameCount = 1#32 :=
  ⟨by decide, by decide, _, rfl, by decide⟩

theorem witness_EveryAcknowledgementOrderEmptiesPend :
    State.phase { published with script := [1, 1, 0].map .ack ++ [.block] } = .publish
    ∧ ∀ i, published.pend.getLsbD i = true → i ∈ [1, 1, 0] := by
  refine ⟨by decide, fun i h => ?_⟩
  by_cases hi : i < 32
  · revert h; revert i; decide
  · rw [BitVec.getLsbD_of_ge _ _ (by omega)] at h; cases h

/-- LOADED, 8 × 1, with both subscribers enabled, and the script of a whole COLORIZE. -/
def colorizing8 : State :=
  { loaded with height := 1#32, inCount := 8#32, subEnable := 3#32,
                script := [.cmd .colorize, .block, .engColorize raw8 pal192 rot24, .block] ++ [1, 0].map .ack ++ [.block] }

theorem witness_ColorizePublishesTheColoredFrame :
    (colorizing8.stateInv ∧ colorizing8.phase = .idle ∧ colorizing8.lifecycle = .loaded
      ∧ colorizing8.inCount = colorizing8.readReg .pixels ∧ raw8.length = colorizing8.numPixels ∧ pal192.length = 192
      ∧ rot24.length = 24)
    ∧ (∀ i, colorizing8.subEnable.getLsbD i = true → i ∈ [1, 0])
    ∧ colorizing8.script
      = [.cmd .colorize, .block, .engColorize raw8 pal192 rot24, .block] ++ [1, 0].map .ack ++ [.block] := by
  refine ⟨⟨by decide, by decide, by decide, by decide, by decide, by decide +kernel, by decide +kernel⟩, fun i h => ?_, rfl⟩
  by_cases hi : i < 32
  · revert h; revert i; decide
  · rw [BitVec.getLsbD_of_ge _ _ (by omega)] at h; cases h

/-- LOADED, 8 × 1, in COPY, with the steps of the command as far as its publish. -/
def copying8 : State := { colorizing8 with phase := .copy, script := [.block, .engColorize raw8 pal192 rot24, .block] }

/-- Two COPY states with another IN, another FRAME_COUNT and another count of draws. -/
theorem witness_EqualAnswersGiveEqualColoredFrames :
    (copying8.stateInv ∧ State.stateInv { copying8 with inp := [(0, 0x01)], frameCount := 7#32, draws := 3 })
    ∧ copying8.phase = .copy
    ∧ State.width { copying8 with inp := [(0, 0x01)], frameCount := 7#32, draws := 3 } = copying8.width
    ∧ State.height { copying8 with inp := [(0, 0x01)], frameCount := 7#32, draws := 3 } = copying8.height
    ∧ (raw8.length = copying8.numPixels ∧ pal192.length = 192 ∧ rot24.length = 24)
    ∧ copying8.script = [.block, .engColorize raw8 pal192 rot24, .block]
    ∧ State.script { copying8 with inp := [(0, 0x01)], frameCount := 7#32, draws := 3 }
      = [.block, .engColorize raw8 pal192 rot24, .block] :=
  ⟨⟨by decide, by decide⟩, by decide, rfl, rfl, ⟨by decide, by decide +kernel, by decide +kernel⟩, rfl, rfl⟩

theorem witness_ColoredFrameIsUnchangedWhilePublished :
    published.phase = .publish ∧ (∃ t, step (published.withNext (.ack 0)) = .next t) ∧ ¬ (published.withNext (.ack 0)).resetNext := by
  refine ⟨by decide, ⟨_, rfl⟩, fun h => ?_⟩
  obtain ⟨rest, h⟩ := h
  cases h

theorem witness_InputAndEngineSpaceWriters :
    (∃ t, step (fresh.withNext (.hostWrite 1 0x10000 5#32)) = .next t ∧ t.inp = [(0, 5#8)])
    ∧ ¬ (fresh.withNext (.hostWrite 1 0x10000 5#32)).resetNext := by
  refine ⟨⟨_, rfl, by decide⟩, fun h => ?_⟩
  obtain ⟨rest, h⟩ := h
  cases h

/-- Each lifecycle state and each result code on some state. -/
theorem witness_StatusLayout :
    (∀ l ∈ [Lifecycle.unloaded, .loaded, .disposed], State.lifecycle { fresh with lifecycle := l } = l)
    ∧ ∀ c ∈ [ErrCode.ok, .illegalCmd, .notLoaded, .disposed, .alreadyLoaded, .loadFail, .loadGeom, .dim],
      State.err { fresh with err := c } = c := by decide

theorem witness_RegistersReadAndStore : fresh.busy = false ∧ fresh.params.nSub ≤ 32 := by decide

theorem witness_PixelsAndPlaneLenAreExact : loaded.stateInv ∧ loaded.width = 8#32 ∧ loaded.height = 2#32 := by decide

/-- The bounds of R67: the last aligned word of the registers and of the aperture, and what lies just outside. -/
theorem witness_BusErrorsChangeNothing :
    (accessOk 4 0x00FFC = true ∧ accessOk 2 0x00FFC = false ∧ accessOk 4 0x00FFE = false)
    ∧ (accessOk 1 0x01000 = true ∧ accessOk 2 0x3FFFE = true ∧ accessOk 4 0x3FFFE = false ∧ accessOk 3 0x01002 = false
      ∧ accessOk 1 0x40000 = false) := by decide

/-- The first and the last reserved offset of each clause. -/
theorem witness_ReservedOffsetsReadZeroIgnoreWrites :
    (∀ off ∈ [0x00034, 0x00FFC], 0x00034 ≤ off ∧ off < 0x01000 ∧ off % 4 = 0)
    ∧ (∀ off ∈ [0x01120, 0x0FFFC], 0x01120 ≤ off ∧ off < 0x10000 ∧ off % 4 = 0)
    ∧ (∀ off ∈ [0x2C000, 0x3FFFC], 0x2C000 ≤ off ∧ off < 0x40000 ∧ off % 4 = 0)
    ∧ ∀ off ∈ [0x11000, 0x1FFFC], 0x10000 + fresh.params.maxPixels ≤ off ∧ off < 0x20000 ∧ off % 4 = 0 := by decide

theorem witness_ReadOnlyTargetsIgnoreWrites :
    (0xFFFCFFFF#32 : Word) &&& 0x00030000#32 = 0#32
    ∧ (∀ off ∈ [0x01000, 0x0111C], 0x01000 ≤ off ∧ off < 0x01120 ∧ off % 4 = 0)
    ∧ ∀ off ∈ [0x20000, 0x2BFFC], 0x20000 ≤ off ∧ off < 0x2C000 ∧ off % 4 = 0 := by decide

theorem witness_ReadsHaveNoSideEffect :
    (∃ t, step (published.withNext (.hostRead 4 0x01000)) = .next t) ∧ published.bankUnspecified = false
    ∧ ∃ t, step (published.withNext (.subRead 1 4 0x01000)) = .next t :=
  ⟨⟨_, rfl⟩, by decide, ⟨_, rfl⟩⟩

/-- The last words of the view, the first offsets on its two sides, a wrong width and a wrong alignment. -/
theorem witness_SubscribersSeeTheHostsBytes :
    1 < published.params.nSub
    ∧ (∀ off ∈ [0x0111C, 0x2BFFC], (0x01000 ≤ off ∧ off < 0x01120) ∨ (0x20000 ≤ off ∧ off < 0x2C000))
    ∧ (∀ off ∈ [0x00FFC, 0x01120, 0x1FFFC, 0x2C000], ¬ ((0x01000 ≤ off ∧ off < 0x01120) ∨ (0x20000 ≤ off ∧ off < 0x2C000)))
    ∧ ¬ (3 = 1 ∨ 3 = 2 ∨ 3 = 4) ∧ 0x01002 % 4 ≠ 0 := by decide

/-- The last word of IN. -/
theorem witness_InputAccessesAreLittleEndian :
    fresh.params.wf ∧ fresh.busy = false ∧ 4092 % 4 = 0 ∧ 4092 + 4 ≤ fresh.params.maxPixels := by decide

/-- The first and the last entry (PM3). -/
theorem witness_PaletteEntryLayout :
    published.bankUnspecified = false ∧ published.palette.read 0 = some ⟨0, 1, 2, 255⟩
    ∧ published.palette.read 63 = some ⟨0xBD, 0xBE, 0xBF, 255⟩ := by decide

/-- An active entry and an inactive one. -/
theorem witness_RotationEntryLayout :
    published.bankUnspecified = false ∧ published.rot.read 0 = some ⟨5, 3, 10⟩ ∧ published.rot.read 7 = some ⟨0, 0, 0⟩ := by decide

/-- The last byte below L, four bytes of a longer plane, a word across L (P4 step 6), and the first byte at L. -/
theorem witness_PlaneWindowLayout :
    (published.bankUnspecified = false ∧ 0 < published.planeLen ∧ published.plane.read (0x2000 * 0 + 0) = some 0xAA
      ∧ published.planeLen ≤ 1)
    ∧ (∀ k < 4, k < State.planeLen { loaded with height := 4#32, plane := [(0, 1), (1, 2), (2, 3), (3, 4)] }
      ∧ Memory.read (State.plane { loaded with height := 4#32, plane := [(0, 1), (1, 2), (2, 3), (3, 4)] }) (0x2000 * 0 + k)
        = some (BitVec.ofNat 8 (k + 1)))
    ∧ (∀ k < 4, 0 + k < published.planeLen → published.plane.read (0x2000 * 0 + (0 + k)) = some 0xAA)
    ∧ (4 : Nat) % 4 = 0 ∧ published.planeLen ≤ 4 := by
  decide

theorem witness_UnwrittenReadsFault :
    (fresh.params.wf ∧ 4095 + 1 ≤ fresh.params.maxPixels ∧ fresh.inp.read 4095 = none)
    ∧ (loaded.bankUnspecified = false ∧ loaded.palette.read 63 = none ∧ loaded.rot.read 7 = none)
    ∧ (1 < loaded.planeLen ∧ loaded.plane.read (0x2000 * 5 + 1) = none) := by decide

/-- Each phase; the last word of the palette and rotation windows; a plane byte below L, in a read below L and in one across it. -/
theorem witness_BankReadsDuringColorizeAreDraws :
    (∀ ph ∈ [Phase.copy, .engineWait, .stages], State.phase { loaded with phase := ph } = ph)
    ∧ (0x01000 ≤ 0x0111C ∧ 0x0111C < 0x01120 ∧ 0x0111C % 4 = 0)
    ∧ 0 < loaded.planeLen ∧ 1 < loaded.planeLen ∧ ¬ 2 < loaded.planeLen ∧ (0x20000 + 0x2000 * 5 + 0) % 4 = 0 := by decide

theorem published_stateInv : published.stateInv := by decide

theorem published_memInv : published.memInv := by decide +kernel

theorem published_boundsInv : published.boundsInv := by decide +kernel

theorem published_bankInv : published.bankInv := by decide +kernel

theorem published_hiddenInv : published.hiddenInv := by decide

theorem witness_PublishedBankReadsAreAnswered : published.Inv ∧ published.phase = .publish :=
  ⟨⟨published_stateInv, published_memInv, published_boundsInv, published_bankInv, published_hiddenInv⟩, rfl⟩

theorem witness_WritesWhileBusyAreDropped :
    (State.busy { loaded with phase := .copy } = true ∧ 4095 < loaded.params.maxPixels ∧ 4095 % 1 = 0)
    ∧ (∃ t, step (State.withNext { loaded with phase := .copy } (.hostWrite 4 0x0001C 3#32)) = .next t)
    ∧ ¬ (State.withNext { loaded with phase := .copy } (.hostWrite 4 0x0001C 3#32)).resetNext := by
  refine ⟨by decide, ⟨_, rfl⟩, fun h => ?_⟩
  obtain ⟨rest, h⟩ := h
  cases h

theorem witness_ResetAbandonsTheCommand :
    ∃ t, step (State.withNext { loaded with phase := .engineWait } .rst) = .next t ∧ t.busy = false := ⟨_, rfl, by decide⟩

/-- A busy block before a step of another agent, before a step of the host, and with no step to come. -/
theorem witness_SeqAndWaitGoOnAsLongAsTheyMust :
    State.blockEnabled { loaded with phase := .copy } = true ∧ loaded.blockEnabled = false ∧ loaded.busy = false
    ∧ State.busy { loaded with phase := .copy } = true
    ∧ (State.script { loaded with phase := .copy, script := [.ack 0] } = .ack 0 :: [] ∧ (Event.ack 0).isHost = false)
    ∧ (State.script { loaded with phase := .copy, script := [.wait] } = .wait :: [] ∧ Event.wait.isHost = true)
    ∧ State.script { loaded with phase := .copy } = [] := by decide

theorem witness_StateInvariantsAreKept :
    loaded.stateInv ∧ ∃ t, step (loaded.withNext (.cmd .colorize)) = .next t ∧ t.phase = .copy := ⟨by decide, _, rfl, by decide⟩

theorem witness_CanonicalMemoriesAreKept :
    published.memInv ∧ ∃ t, step (published.withNext (.ack 0)) = .next t := ⟨published_memInv, _, rfl⟩

theorem witness_EveryInvariantHoldsAtReset : (⟨16, 1⟩ : Config.Params).wf ∧ Config.params.wf := by decide

theorem witness_EveryInvariantIsKept :
    published.Inv ∧ ∃ t, step (published.withNext (.ack 0)) = .next t :=
  ⟨witness_PublishedBankReadsAreAnswered.1, _, rfl⟩

end Sys2Proof.Tests
end

section
/-! The obligations of 00_scope.md: what one step of the machine is (R5). -/

namespace Sys2Proof.Machine

/-- R170: with no agent step to come, the block sequencer has the step. -/
theorem step_of_script_nil {s : State} (h : s.script = []) : step s = .next (blockStep s) := by
  unfold step
  rw [h]

/-- R224, R242: with no agent step to come and no block step enabled, the machine stays as it is. -/
theorem step_of_script_nil_of_disabled {s : State} (hs : s.script = []) (hb : s.blockEnabled = false) :
    step s = .next s := by
  rw [step_of_script_nil hs, blockStep_of_disabled hb]

/-- Settles O5, by the two forms of the script: a head to perform, or no agent step to come. -/
theorem stepPerformsTheNextAgentStep : Obligations.StepPerformsTheNextAgentStep :=
  ⟨step_withNext, fun _ hs => ⟨step_of_script_nil hs, step_of_script_nil_of_disabled hs⟩⟩

end Sys2Proof.Machine
end

section
/-! What one effect leaves alone, group of fields by group of fields, and who writes each group: the binding registers, FRAME_COUNT,
the output bank, IN and the engine space. -/

namespace Sys2Proof.Machine

/-- The state after a step is the effect's, but for some script, reply and count of draws; the equation is one to substitute. -/
theorem step_next_eq {s t : State} (h : step s = .next t) :
    ∃ u sc r d, Effect s.script.head? s u ∧ t = { u with script := sc, reply := r, draws := d } := by
  obtain ⟨u, hu, ht⟩ := step_effect h
  exact ⟨u, _, _, _, hu, ht⟩

section
variable {e : Option Event} {s u : State}

/-- WIDTH, HEIGHT and COLOR_COUNT are written by a successful LOAD answer and by RST (R32 to R34, R230). -/
theorem Effect.binding_writers (h : Effect e s u) :
    (u.width = s.width ∧ u.height = s.height ∧ u.colorCount = s.colorCount)
    ∨ (∃ w h cc, e = some (.engLoad true w h cc) ∧ s.phase = .loadWait ∧ u.lifecycle = .loaded
        ∧ u.width = w ∧ u.height = h ∧ u.colorCount = cc)
    ∨ (e = some .rst ∧ u.bindingZero) := by
  cases h with
  | loaded w h cc hp _ hh => exact .inr (.inl ⟨w, h, cc, hh, hp, rfl, rfl, rfl, rfl⟩)
  | wasReset hh => exact .inr (.inr ⟨hh, rfl, rfl, rfl⟩)
  | _ => exact .inl ⟨rfl, rfl, rfl⟩

/-- FRAME_COUNT is written by the completion and by RST (R40, R230). -/
theorem Effect.frameCount_writers (h : Effect e s u) :
    u.frameCount = s.frameCount
    ∨ (s.phase = .publish ∧ s.pend = 0#32 ∧ u.phase = .idle ∧ u.frameCount = s.frameCount + 1#32)
    ∨ (e = some .rst ∧ u.frameCount = 0#32) := by
  cases h with
  | completed hp hz => exact .inr (.inl ⟨hp, hz, rfl, rfl⟩)
  | wasReset hh => exact .inr (.inr ⟨hh, rfl⟩)
  | _ => exact .inl rfl

/-- The output bank is written in STAGES and by RST (R43 to R45, R230). -/
theorem Effect.bank_writers (h : Effect e s u) :
    (u.palette = s.palette ∧ u.rot = s.rot ∧ u.plane = s.plane) ∨ s.phase = .stages ∨ e = some .rst := by
  cases h with
  | staged hp => exact .inr (.inl hp)
  | wasReset hh => exact .inr (.inr hh)
  | _ => exact .inl ⟨rfl, rfl, rfl⟩

/-- IN is written by a host write on an idle block and by RST (R46, R230). -/
theorem Effect.inp_writers (h : Effect e s u) :
    u.inp = s.inp ∨ (s.busy = false ∧ ∃ n off v, e = some (.hostWrite n off v)) ∨ e = some .rst := by
  cases h with
  | input _ _ hb _ hh => exact .inr (.inl ⟨hb, hh⟩)
  | wasReset hh => exact .inr (.inr hh)
  | _ => exact .inl rfl

/-- RAW, PAL_STAGE and ROT_STAGE are written by COPY (RAW only), by the COLORIZE answer and by RST (R47, R48, R230). -/
theorem Effect.engineSpace_writers (h : Effect e s u) :
    (u.raw = s.raw ∧ u.palStage = s.palStage ∧ u.rotStage = s.rotStage)
    ∨ (s.phase = .copy ∧ u.phase = .engineWait ∧ u.palStage = s.palStage ∧ u.rotStage = s.rotStage)
    ∨ (s.phase = .engineWait ∧ u.phase = .stages ∧ ∃ raw pal rot, e = some (.engColorize raw pal rot))
    ∨ e = some .rst := by
  cases h with
  | copied hp => exact .inr (.inl ⟨hp, rfl, rfl, rfl⟩)
  | answered raw pal rot hp _ hh => exact .inr (.inr (.inl ⟨hp, rfl, raw, pal, rot, hh⟩))
  | wasReset hh => exact .inr (.inr (.inr hh))
  | _ => exact .inl ⟨rfl, rfl, rfl⟩

end

/-- The head of the script is RST, as `step_effect` names it. -/
theorem resetNext_of_head? {s : State} (h : s.script.head? = some .rst) : s.resetNext := List.head?_eq_some_iff.1 h

end Sys2Proof.Machine
end

section
/-! The invariants of Safety.lean, one after another: what one effect does to each. -/

namespace Sys2Proof.Machine

/-! ### The state invariants of R52 -/

/-- What WIDTH, HEIGHT and COLOR_COUNT may be in each lifecycle state (R52). -/
def State.bindingFits (s : State) : Prop :=
  match s.lifecycle with
  | .unloaded => s.bindingZero
  | .loaded => s.geometryLegal
  | .disposed => s.bindingZero ∨ s.geometryLegal

/-- The lifecycle state that each phase but IDLE belongs to (R52). -/
def State.phaseFits (s : State) : Prop :=
  match s.phase with
  | .idle => True
  | .loadWait => s.lifecycle = .unloaded
  | .disposeWait => s.lifecycle = .loaded
  | .copy => s.lifecycle = .loaded
  | .engineWait => s.lifecycle = .loaded
  | .stages => s.lifecycle = .loaded
  | .publish => s.lifecycle = .loaded

/-- The clauses of R52 that speak of the binding, by the lifecycle state. -/
theorem State.bindingFits_iff (s : State) : s.bindingFits ↔
    (s.lifecycle = .loaded → s.geometryLegal) ∧ (s.lifecycle = .unloaded → s.bindingZero)
    ∧ (s.lifecycle = .disposed → s.bindingZero ∨ s.geometryLegal) := by
  unfold State.bindingFits
  cases s.lifecycle <;> simp

/-- The clauses of R52 that speak of PHASE, by the phase. -/
theorem State.phaseFits_iff (s : State) : s.phaseFits ↔
    (s.colorizing → s.lifecycle = .loaded) ∧ (s.phase = .loadWait → s.lifecycle = .unloaded)
    ∧ (s.phase = .disposeWait → s.lifecycle = .loaded) := by
  unfold State.phaseFits State.colorizing
  cases s.phase <;> simp

/-- A published frame is part of a command in progress (R25, R26). -/
theorem State.busy_of_pub {s : State} (h : s.pub = true) : s.busy = true := by
  simp only [State.pub, State.busy, decide_eq_true_eq] at h ⊢
  rw [h]
  decide

/-- The invariants of R52: the parameters, the binding by the lifecycle state, the phase by the lifecycle state. -/
theorem State.stateInv_iff (s : State) : s.stateInv ↔ s.params.wf ∧ s.bindingFits ∧ s.phaseFits := by
  rw [State.bindingFits_iff, State.phaseFits_iff]
  constructor
  · rintro ⟨hw, hl, hu, hd, -, hc, hlw, hdw⟩
    exact ⟨hw, ⟨hl, hu, hd⟩, hc, hlw, hdw⟩
  · rintro ⟨hw, ⟨hl, hu, hd⟩, hc, hlw, hdw⟩
    exact ⟨hw, hl, hu, hd, State.busy_of_pub, hc, hlw, hdw⟩

/-- STAGES belongs to LOADED (R52). -/
theorem State.loaded_of_stages {s : State} (hi : s.stateInv) (hp : s.phase = .stages) : s.lifecycle = .loaded := by
  obtain ⟨-, -, -, -, -, hc, -⟩ := hi
  exact hc (.inr (.inr (.inl hp)))

/-- LOAD_WAIT belongs to UNLOADED (R52). -/
theorem State.unloaded_of_loadWait {s : State} (hi : s.stateInv) (hp : s.phase = .loadWait) : s.lifecycle = .unloaded := by
  obtain ⟨-, -, -, -, -, -, hl, -⟩ := hi
  exact hl hp

/-- The planes fit their windows (R65). -/
theorem State.planeLen_le {s : State} (hi : s.stateInv) : s.planeLen ≤ 0x2000 := by
  obtain ⟨-, hN⟩ := pixels_exact hi
  obtain ⟨⟨-, hmax, -⟩, -⟩ := hi
  unfold State.planeLen
  omega

section
variable {e : Option Event} {s u : State}

/-- Every effect keeps the invariants of R52. -/
theorem Effect.keeps_stateInv (h : Effect e s u) (hi : s.stateInv) : u.stateInv := by
  rw [State.stateInv_iff] at hi ⊢
  obtain ⟨hw, hb, hp⟩ := hi
  cases h with
  | refused | loadFailed | completed => exact ⟨hw, hb, trivial⟩
  | loadAccepted _ hl | colorizeAccepted _ hl | disposeAccepted _ hl => exact ⟨hw, hb, hl⟩
  | disposedAtOnce _ hl =>
    have hz : s.bindingZero := by simpa only [State.bindingFits, hl] using hb
    exact ⟨hw, .inl hz, trivial⟩
  | loaded w h cc _ hg => exact ⟨hw, geometry_legal hg, trivial⟩
  | disposed hd =>
    have hl : s.lifecycle = .loaded := by simpa only [State.phaseFits, hd] using hp
    have hg : s.geometryLegal := by simpa only [State.bindingFits, hl] using hb
    exact ⟨hw, .inr hg, trivial⟩
  | copied hc | answered _ _ _ hc | staged hc =>
    have hl : s.lifecycle = .loaded := by simpa only [State.phaseFits, hc] using hp
    exact ⟨hw, hb, hl⟩
  | wasReset => exact ⟨hw, ⟨rfl, rfl, rfl⟩, trivial⟩
  | _ => exact ⟨hw, hb, hp⟩

/-! ### The canonical form of the memories -/

/-- Every effect keeps the canonical form of every memory. -/
theorem Effect.keeps_memInv (h : Effect e s u) (hm : s.memInv) : u.memInv := by
  have ⟨hpal, hrot, hplane, hinp, hraw, hps, hrs⟩ := hm
  cases h with
  | input i bs => exact ⟨hpal, hrot, hplane, Memory.wf_writeRange hinp _ _, hraw, hps, hrs⟩
  | copied => exact ⟨hpal, hrot, hplane, hinp, Memory.wf_writeRange hraw _ _, hps, hrs⟩
  | answered raw pal rot =>
    exact ⟨hpal, hrot, hplane, hinp, Memory.wf_writeRange hraw _ _, Memory.wf_writeRange hps _ _,
      Memory.wf_writeRange hrs _ _⟩
  | staged =>
    exact ⟨Memory.wf_writeRange hpal _ _, Memory.wf_writeRange hrot _ _, packFrame_wf _ _ _ hplane, hinp, hraw, hps, hrs⟩
  | wasReset => exact ⟨.nil, .nil, .nil, .nil, .nil, .nil, .nil⟩
  | _ => exact hm

end

/-! ### The bounds of the memories and of the masks -/

/-- A run of writes below n keeps a memory below n. -/
theorem Memory.below_writeRange {α : Type} {m : Memory α} {a n : Nat} {vs : List α} (h : m.below n)
    (hv : a + vs.length ≤ n) : (m.writeRange a vs).below n := fun c hc => by
  rcases Memory.mem_writeRange hc with ⟨-, hlt, -⟩ | hc
  · omega
  · exact h c hc

/-- PACK keeps the plane bank within its planes (R45). -/
theorem packFrame_bounds {len : Nat} {frame : List Byte} {m : Memory Byte} (hlen : len ≤ 0x2000)
    (h : ∀ c ∈ m, c.1 / 0x2000 < Config.nPlanes ∧ c.1 % 0x2000 < len) :
    ∀ c ∈ packFrame len frame m, c.1 / 0x2000 < Config.nPlanes ∧ c.1 % 0x2000 < len := by
  intro c hc
  rcases mem_packFrame hc with ⟨p, hp, b, hb, hk⟩ | hne
  · unfold planeKey at hk
    show c.1 / 0x2000 < 6 ∧ _
    omega
  · obtain ⟨v, hv⟩ := Option.ne_none_iff_exists'.1 hne
    exact h (c.1, v) (Memory.mem_of_read hv)

/-- MARSHAL keeps every palette entry opaque (R151). -/
theorem marshal_opaque {s : State} (h : ∀ c ∈ s.palette, c.2.a = Config.alpha) :
    ∀ c ∈ (marshal s).palette, c.2.a = Config.alpha := by
  intro c hc
  rcases Memory.mem_writeRange hc with ⟨-, -, hv⟩ | hc
  · obtain ⟨i, -, hi⟩ := List.mem_map.1 hv
    rw [← hi]
    rfl
  · exact h c hc

/-- A masked word lies within the mask. -/
theorem and_subMask_and_subMask (v : Word) (n : Nat) : v &&& subMask n &&& subMask n = v &&& subMask n := by
  rw [BitVec.and_assoc, BitVec.and_self]

/-- A word within the mask stays within it when bits are cleared. -/
theorem and_and_subMask {p : Word} {n : Nat} (h : p &&& subMask n = p) (x : Word) : p &&& x &&& subMask n = p &&& x := by
  rw [BitVec.and_assoc, BitVec.and_comm x, ← BitVec.and_assoc, h]

section
variable {e : Option Event} {s u : State}

/-- Every effect keeps the bounds. A LOAD answer moves the plane length, and finds the bank empty. -/
theorem Effect.keeps_boundsInv (h : Effect e s u) (hs : s.stateInv) (hk : s.bankInv) (hb : s.boundsInv) : u.boundsInv := by
  obtain ⟨-, hN⟩ := pixels_exact hs
  have ⟨hpal, hrot, hplane, hinp, hraw, hps, hrs, hop, hse, hpe⟩ := hb
  cases h with
  | subEnable v => exact ⟨hpal, hrot, hplane, hinp, hraw, hps, hrs, hop, and_subMask_and_subMask _ _, hpe⟩
  | input i bs _ hi =>
    have hlen : i + (bs.take (s.params.maxPixels - i)).length ≤ s.params.maxPixels := by
      have := List.length_take_le (s.params.maxPixels - i) bs
      omega
    exact ⟨hpal, hrot, hplane, Memory.below_writeRange hinp hlen, hraw, hps, hrs, hop, hse, hpe⟩
  | loaded w h cc hp =>
    obtain ⟨-, hun, -⟩ := hk
    obtain ⟨-, -, hempty⟩ := hun (State.unloaded_of_loadWait hs hp)
    exact ⟨hpal, hrot, fun c hc => by simp [hempty] at hc, hinp, hraw, hps, hrs, hop, hse, hpe⟩
  | copied =>
    have hlen : 0 + s.copiedFrame.length ≤ s.params.maxPixels := by simpa [State.copiedFrame] using hN
    exact ⟨hpal, hrot, hplane, hinp, Memory.below_writeRange hraw hlen, hps, hrs, hop, hse, hpe⟩
  | answered raw pal rot _ hl =>
    obtain ⟨hlr, hlp, hlt⟩ := hl
    have hr : 0 + raw.length ≤ s.params.maxPixels := by omega
    have hp : 0 + pal.length ≤ Config.palBytes := by omega
    have ht : 0 + rot.length ≤ Config.rotBytes := by omega
    exact ⟨hpal, hrot, hplane, hinp, Memory.below_writeRange hraw hr, Memory.below_writeRange hps hp,
      Memory.below_writeRange hrs ht, hop, hse, hpe⟩
  | staged =>
    exact ⟨Memory.below_writeRange hpal (by simp), Memory.below_writeRange hrot (by simp),
      packFrame_bounds (State.planeLen_le hs) hplane, hinp, hraw, hps, hrs, marshal_opaque hop, hse,
      and_subMask_and_subMask _ _⟩
  | acknowledged i => exact ⟨hpal, hrot, hplane, hinp, hraw, hps, hrs, hop, hse, and_and_subMask hpe _⟩
  | wasReset => exact ⟨nofun, nofun, nofun, nofun, nofun, nofun, nofun, nofun, BitVec.zero_and, BitVec.zero_and⟩
  | _ => exact hb

end

/-! ### The output bank and the engine space -/

/-- A run of writes from address 0 leaves a value at each of its addresses. -/
theorem Memory.read_writeRange_ne_none {α : Type} (m : Memory α) {vs : List α} {i : Nat} (h : i < vs.length) :
    (m.writeRange 0 vs).read i ≠ none := by
  rw [Memory.read_writeRange_in m (Nat.zero_le i) (by omega)]
  simpa using h

/-- STAGES writes the whole output bank (R174). -/
theorem stagesStep_bankFull (s : State) : (stagesStep s).bankFull :=
  ⟨fun _ hi => Memory.read_writeRange_ne_none _ (by simpa using hi),
    fun _ hj => Memory.read_writeRange_ne_none _ (by simpa using hj),
    fun _ hp _ hb => packFrame_read_ne_none _ _ _ hp hb⟩

section
variable {e : Option Event} {s u : State}

/-- Every effect keeps the output bank written as a whole or not at all. -/
theorem Effect.keeps_bankInv (h : Effect e s u) (hs : s.stateInv) (hk : s.bankInv) : u.bankInv := by
  have ⟨hwhole, hun, hpub⟩ := hk
  cases h with
  | refused | loadFailed | completed | loadAccepted | colorizeAccepted | disposeAccepted | copied | answered =>
    exact ⟨hwhole, hun, nofun⟩
  | disposedAtOnce | disposed => exact ⟨hwhole, nofun, nofun⟩
  | loaded w h cc hp => exact ⟨.inl (hun (State.unloaded_of_loadWait hs hp)), nofun, nofun⟩
  | staged hp =>
    have hl : s.lifecycle = .loaded := State.loaded_of_stages hs hp
    exact ⟨.inr (stagesStep_bankFull s), fun (hc : s.lifecycle = .unloaded) => by simp [hl] at hc,
      fun _ => stagesStep_bankFull s⟩
  | wasReset => exact ⟨.inl ⟨rfl, rfl, rfl⟩, fun _ => ⟨rfl, rfl, rfl⟩, nofun⟩
  | _ => exact hk

/-- Outside ENGINE_WAIT and STAGES nothing is asked of the engine space. -/
theorem State.hiddenInv_of_phase {s : State} (h1 : s.phase ≠ .engineWait) (h2 : s.phase ≠ .stages) : s.hiddenInv :=
  ⟨fun h => absurd h (not_or.2 ⟨h1, h2⟩), fun h => absurd h h2⟩

/-- Every effect keeps the engine space written before a stage reads it: COPY fills RAW, the answer fills all three arrays. -/
theorem Effect.keeps_hiddenInv (h : Effect e s u) (hh : s.hiddenInv) : u.hiddenInv := by
  cases h with
  | refused | loadFailed | completed | loadAccepted | colorizeAccepted | disposeAccepted | disposedAtOnce | loaded | disposed
  | staged | wasReset => exact State.hiddenInv_of_phase nofun nofun
  | copied =>
    have hlen : s.copiedFrame.length = s.numPixels := by simp [State.copiedFrame]
    exact ⟨fun _ i hi => Memory.read_writeRange_ne_none _ (hlen ▸ hi), nofun⟩
  | answered raw pal rot _ hl =>
    obtain ⟨hlr, hlp, hlt⟩ := hl
    exact ⟨fun _ i hi => Memory.read_writeRange_ne_none _ (hlr ▸ hi),
      fun _ => ⟨fun i hi => Memory.read_writeRange_ne_none _ (hlp ▸ hi),
        fun i hi => Memory.read_writeRange_ne_none _ (hlt ▸ hi)⟩⟩
  | _ => exact hh

/-- Every effect keeps all the invariants together. -/
theorem Effect.keeps_Inv (h : Effect e s u) (hi : s.Inv) : u.Inv := by
  obtain ⟨hs, hm, hb, hk, hh⟩ := hi
  exact ⟨h.keeps_stateInv hs, h.keeps_memInv hm, h.keeps_boundsInv hs hk hb, h.keeps_bankInv hs hk, h.keeps_hiddenInv hh⟩

end

end Sys2Proof.Machine
end

section
/-! What a host access to a register does as a step, and the bits of STATUS. -/

namespace Sys2Proof.Machine

/-- A read of a register answers the register and has no other effect (R22, R70). -/
theorem step_hostRead_reg (s : State) (r : Reg) :
    step (s.withNext (.hostRead 4 r.offset)) = .next (s.answer (.data (s.readReg r))) := hostRead_reg r s

/-- A write to a register reaches the register, the bus having taken it (R22). -/
theorem step_hostWrite_reg (s : State) (r : Reg) (v : Word) :
    step (s.withNext (.hostWrite 4 r.offset v)) = writeReg r v (s.answer .written) := hostWrite_reg r v s

/-- On a busy block a command is dropped (R236, log 14). -/
theorem exec_busy (i : Instr) {s : State} (hb : s.busy = true) : exec i s = .next s.dropWrite := by
  cases i <;> exact congrArg _ (State.whenIdle_busy hb _)

/-- A CMD write of a command's word is the command, on a busy block too. -/
theorem submitCommand_of_command {w : Word} {i : Instr} (hd : decodeWord w = .command i) (s : State) :
    submitCommand w s = exec i s := by
  unfold submitCommand
  split
  · next hb => rw [exec_busy i hb]
  · rw [hd]

/-- The word that `withFetchWord` places is the word whose bits it is given. -/
theorem withFetchWord_toNat (s : State) (w : Word) : s.withFetchWord 32 w.toNat = s.withNext (.cmdWord w) := by
  rw [State.withFetchWord, Nat.mod_eq_of_lt w.isLt, BitVec.ofNat_toNat, BitVec.setWidth_eq]

/-- The bits of a subscriber mask (R39). -/
theorem getLsbD_subMask {n : Nat} (hn : n ≤ 32) (i : Nat) : (subMask n).getLsbD i = decide (i < n) := by
  rw [subMask, BitVec.getLsbD_ofNat, Nat.testBit_two_pow_sub_one]
  by_cases h : i < n
  · simp [h, Nat.lt_of_lt_of_le h hn]
  · simp [h]

/-- A write to STATUS, bit by bit (R29, R30). -/
theorem State.clearW1c_eq_ite (s : State) (v : Word) :
    s.clearW1c v = { s with errSticky := if v.getLsbD 16 = true then false else s.errSticky,
                            wign := if v.getLsbD 17 = true then false else s.wign } := by
  unfold State.clearW1c
  cases v.getLsbD 16 <;> cases v.getLsbD 17 <;> simp

/-! ### The bits of STATUS (R31) -/

/-- STATUS, bit by bit (R31). -/
theorem status_getLsbD (s : State) (i : Nat) : s.status.getLsbD i =
    if i < 2 then s.lifecycle.code.getLsbD i
    else if i < 3 then s.busy
    else if i < 4 then s.pub
    else if i < 5 then s.src4
    else if i < 8 then false
    else if i < 12 then s.err.code.getLsbD (i - 8)
    else if i < 16 then false
    else if i < 17 then s.errSticky
    else if i < 18 then s.wign
    else false := by
  by_cases hi : i < 32
  · unfold State.status
    repeat rw [BitVec.getLsbD_append]
    interval_cases i <;> simp
  · rw [BitVec.getLsbD_of_ge _ _ (by omega)]
    repeat rw [if_neg (by omega)]

/-- A field of a word is known by its bits. -/
theorem extract_eq_of_bits {w : Word} {start len : Nat} {f : BitVec len}
    (h : ∀ i < len, w.getLsbD (start + i) = f.getLsbD i) : w.extractLsb' start len = f :=
  BitVec.eq_of_getLsbD_eq fun i hi => by rw [BitVec.getLsbD_extractLsb', h i hi]; simp [hi]

/-- STATUS.STATE, bits [1:0] (R24). -/
theorem status_state (s : State) : s.status.extractLsb' 0 2 = s.lifecycle.code :=
  extract_eq_of_bits fun i hi => by rw [status_getLsbD, Nat.zero_add, if_pos hi]

/-- STATUS.ERR, bits [11:8] (R28). -/
theorem status_err (s : State) : s.status.extractLsb' 8 4 = s.err.code :=
  extract_eq_of_bits fun i hi => by rw [status_getLsbD]; interval_cases i <;> rfl

/-- A bit of STATUS outside every field reads 0 (R31). -/
theorem status_getLsbD_reserved (s : State) {i : Nat} (h : (5 ≤ i ∧ i < 8) ∨ (12 ≤ i ∧ i < 16) ∨ 18 ≤ i) :
    s.status.getLsbD i = false := by
  rw [status_getLsbD]
  grind

/-- A run of bits of STATUS outside every field reads 0 (R31). -/
theorem status_reserved (s : State) {start len : Nat}
    (h : (5 ≤ start ∧ start + len ≤ 8) ∨ (12 ≤ start ∧ start + len ≤ 16) ∨ 18 ≤ start) :
    s.status.extractLsb' start len = 0#len :=
  extract_eq_of_bits fun i hi => by rw [status_getLsbD_reserved s (by omega), BitVec.getLsbD_zero]

end Sys2Proof.Machine
end

section
/-! The obligations of 10_state.md. -/

namespace Sys2Proof.Machine

/-- Settles O59, by the effect of one step: no invariant speaks of the script, the reply or the draws. -/
theorem everyInvariantIsKept : Obligations.EveryInvariantIsKept := by
  intro s t hi h
  obtain ⟨u, _, _, _, hu, rfl⟩ := step_next_eq h
  exact hu.keeps_Inv hi

/-- Settles O56, by the effect of one step. -/
theorem stateInvariantsAreKept : Obligations.StateInvariantsAreKept := by
  intro s t hi h
  obtain ⟨u, _, _, _, hu, rfl⟩ := step_next_eq h
  exact hu.keeps_stateInv hi

/-- Settles O16, by the writers of the binding registers. -/
theorem bindingWrittenOnlyBySuccessfulLoad : Obligations.BindingWrittenOnlyBySuccessfulLoad := by
  intro s t h
  obtain ⟨u, _, _, _, hu, rfl⟩ := step_next_eq h
  rcases hu.binding_writers with hsame | ⟨w, h, cc, he, hload⟩ | ⟨he, hzero⟩
  · exact .inl hsame
  · obtain ⟨rest, hs⟩ := List.head?_eq_some_iff.1 he
    exact .inr (.inl ⟨w, h, cc, rest, hs, hload⟩)
  · exact .inr (.inr ⟨resetNext_of_head? he, hzero⟩)

/-- The block step of a publish that waits for nobody is the completion (R177). -/
theorem blockStep_of_published {s : State} (hp : s.phase = .publish) (hz : s.pend = 0#32) : blockStep s = completeStep s := by
  simp only [blockStep, hp, hz, if_true]

/-- Settles O30, by the completion and the writers of FRAME_COUNT. -/
theorem completionCountsThePublish : Obligations.CompletionCountsThePublish := by
  refine ⟨fun s hp hz => congrArg _ (blockStep_of_published hp hz), fun s t h => ?_⟩
  obtain ⟨u, _, _, _, hu, rfl⟩ := step_next_eq h
  rcases hu.frameCount_writers with hsame | hdone | ⟨he, hzero⟩
  · exact .inl hsame
  · exact .inr (.inl hdone)
  · exact .inr (.inr ⟨resetNext_of_head? he, hzero⟩)

/-- The Colored Frame is a function of the output bank and of the dimensions (R51). -/
theorem coloredFrame_congr {s t : State} (hpal : t.palette = s.palette) (hrot : t.rot = s.rot) (hplane : t.plane = s.plane)
    (hw : t.width = s.width) (hh : t.height = s.height) : t.coloredFrame = s.coloredFrame := by
  simp only [State.coloredFrame, State.planeLen, State.numPixels, State.pixels, hpal, hrot, hplane, hw, hh]

/-- Settles O34, by the writers of the output bank; the plane length is fixed in PUBLISH, because no LOAD is answered there. -/
theorem coloredFrameIsUnchangedWhilePublished : Obligations.ColoredFrameIsUnchangedWhilePublished := by
  constructor
  · intro s t h
    obtain ⟨u, _, _, _, hu, rfl⟩ := step_next_eq h
    rcases hu.bank_writers with hsame | hst | he
    · exact .inl hsame
    · exact .inr (.inl hst)
    · exact .inr (.inr (resetNext_of_head? he))
  · intro s t hp hnr h
    obtain ⟨u, _, _, _, hu, rfl⟩ := step_next_eq h
    rcases hu.bank_writers with ⟨hpal, hrot, hplane⟩ | hst | he
    · rcases hu.binding_writers with ⟨hw, hh, -⟩ | ⟨_, _, _, -, hlw, -⟩ | ⟨he, -⟩
      · exact coloredFrame_congr hpal hrot hplane hw hh
      · simp [hp] at hlw
      · exact absurd (resetNext_of_head? he) hnr
    · simp [hp] at hst
    · exact absurd (resetNext_of_head? he) hnr

/-- Settles O35, by the writers of IN and of the engine space. -/
theorem inputAndEngineSpaceWriters : Obligations.InputAndEngineSpaceWriters := by
  intro s t h hnr
  obtain ⟨u, _, _, _, hu, rfl⟩ := step_next_eq h
  constructor
  · rcases hu.inp_writers with hsame | ⟨hb, n, off, v, he⟩ | he
    · exact .inl hsame
    · obtain ⟨rest, hs⟩ := List.head?_eq_some_iff.1 he
      exact .inr ⟨hb, n, off, v, rest, hs⟩
    · exact absurd (resetNext_of_head? he) hnr
  · rcases hu.engineSpace_writers with hsame | hcopy | ⟨hp, hst, raw, pal, rot, he⟩ | he
    · exact .inl hsame
    · exact .inr (.inl hcopy)
    · obtain ⟨rest, hs⟩ := List.head?_eq_some_iff.1 he
      exact .inr (.inr ⟨hp, hst, raw, pal, rot, rest, hs⟩)
    · exact absurd (resetNext_of_head? he) hnr

/-- PLANE_LEN reads L (R36). -/
theorem planeLenReg_toNat (s : State) : s.planeLenReg.toNat = s.planeLen := by
  rw [State.planeLenReg, BitVec.toNat_ushiftRight, Nat.shiftRight_eq_div_pow]
  rfl

/-- Settles O39, by the exactness of the 32-bit product under the invariants of R52. -/
theorem pixelsAndPlaneLenAreExact : Obligations.PixelsAndPlaneLenAreExact := by
  intro s hi
  obtain ⟨hN, hmax⟩ := pixels_exact hi
  have hL : s.planeLen = s.width.toNat * s.height.toNat / 8 := congrArg (· / 8) hN
  exact ⟨hN, (planeLenReg_toNat s).trans hL, hN, hL, hmax, State.planeLen_le hi⟩

/-- Settles O6, by the CMD write of a command's word, busy or not. -/
theorem stepRunsTheDecodedCommand : Obligations.StepRunsTheDecodedCommand := by
  intro s i w hd
  have hstep : step (s.withNext (.cmdWord w)) = exec i { s with reply := .written } :=
    (step_hostWrite_reg s .cmd w).trans (submitCommand_of_command hd _)
  exact ⟨hstep, (withFetchWord_toNat s w).symm ▸ hstep⟩

/-- Settles O17, by bit 4 of STATUS. -/
theorem sourceFormatFollowsColorCount : Obligations.SourceFormatFollowsColorCount :=
  ⟨fun s => ⟨s.status, step_hostRead_reg s .status, status_getLsbD s 4⟩,
    fun p => status_getLsbD (State.resetWith p) 4⟩

/-- Settles O36, by the fields of STATUS. -/
theorem statusLayout : Obligations.StatusLayout := by
  intro s
  refine ⟨s.status, step_hostRead_reg s .status, ?_⟩
  rw [status_state, status_err]
  exact ⟨congrArg Lifecycle.code, congrArg Lifecycle.code, congrArg Lifecycle.code,
    congrArg ErrCode.code, congrArg ErrCode.code, congrArg ErrCode.code, congrArg ErrCode.code,
    congrArg ErrCode.code, congrArg ErrCode.code, congrArg ErrCode.code, congrArg ErrCode.code,
    status_getLsbD s 2, status_getLsbD s 3, status_getLsbD s 4,
    status_reserved s (by omega), status_reserved s (by omega), status_getLsbD s 16, status_getLsbD s 17,
    status_reserved s (by omega)⟩

/-- Settles O37, by the write-1-to-clear bits of STATUS. -/
theorem statusWriteClearsItsTwoBits : Obligations.StatusWriteClearsItsTwoBits :=
  fun s v => (step_hostWrite_reg s .status v).trans (congrArg _ (State.clearW1c_eq_ite _ v))

/-- A write to a read-write register on an idle block has its effect (R37 to R39). -/
theorem next_whenIdle_idle {s : State} (hb : s.busy = false) (f : State → State) :
    (.next ((s.answer .written).whenIdle f) : Host.Outcome State Fault Refusal) = .next (f (s.answer .written)) :=
  congrArg _ (State.whenIdle_idle (s := s.answer .written) hb f)

/-- Settles O38, by the read and the write of one register. -/
theorem registersReadAndStore : Obligations.RegistersReadAndStore := by
  constructor
  · intro s
    have hread := step_hostRead_reg s
    exact ⟨hread .cmd, hread .status, hread .width, hread .height, hread .colorCount, hread .pixels, hread .planeLen,
      hread .inCount, hread .loadArg, hread .subEnable, hread .frameCount, hread .paramMaxPixels, hread .paramNSub⟩
  · intro s v hb
    refine ⟨(step_hostWrite_reg s .inCount v).trans (next_whenIdle_idle hb _),
      (step_hostWrite_reg s .loadArg v).trans (next_whenIdle_idle hb _), fun hn => ?_⟩
    refine ⟨_, (step_hostWrite_reg s .subEnable v).trans (next_whenIdle_idle hb _), rfl, fun i => ?_⟩
    exact (BitVec.getLsbD_and ..).trans (congrArg _ (getLsbD_subMask hn i))

end Sys2Proof.Machine
end

section
/-! What an access to the windows does as a step: a read whose bytes all hold a value, a write that no window stores. -/

namespace Sys2Proof.Machine

/-! ### The bus rules (R67) -/

/-- An access that the bus rules do not admit is a bus error. -/
theorem accessOk_eq_false {n off : Nat}
    (h : ¬ ((off < 0x01000 ∧ n = 4 ∧ off % 4 = 0)
      ∨ (0x01000 ≤ off ∧ off < 0x40000 ∧ (n = 1 ∨ n = 2 ∨ n = 4) ∧ off % n = 0))) : accessOk n off = false :=
  Bool.eq_false_iff.2 fun hok => h ((accessOk_iff n off).1 hok)

/-- An aligned access does not cross a bound that is a multiple of 4. -/
theorem aligned_add_lt {n a k bound : Nat} (hn : n = 1 ∨ n = 2 ∨ n = 4) (ha : a % n = 0) (hk : k < n)
    (hb : bound % 4 = 0) (h : a < bound) : a + k < bound := by
  rcases hn with rfl | rfl | rfl <;> omega

/-- An offset into a window is aligned as the access itself is. -/
theorem aligned_add {n base a : Nat} (hn : n = 1 ∨ n = 2 ∨ n = 4) (hb : base % 4 = 0) (ha : a % n = 0) :
    (base + a) % n = 0 := by
  rcases hn with rfl | rfl | rfl <;> omega

/-! ### What an access leaves in `reply` and in `draws` -/

section
variable {e : Option Event} {s u t : State} {n off : Nat}

/-- The bus answer is no part of any effect; RST alone clears it (log 5). -/
theorem Effect.reply_eq (h : Effect e s u) (he : e ≠ some .rst) : u.reply = s.reply := by
  cases h with
  | wasReset hh => exact absurd hh he
  | _ => rfl

/-- A write that the bus admits is answered as taken, whatever its target makes of it. -/
theorem hostWrite_reply {v : Word} (hok : accessOk n off = true) (h : hostWrite n off v s = .next t) : t.reply = .written := by
  unfold hostWrite at h
  rw [if_neg (by simp [hok])] at h
  split at h
  · split at h
    · exact (writeReg_effect (e := none) h).reply_eq nofun
    · cases h; rfl
  · cases h
    exact (writeWindow_effect (e := some (.hostWrite n off v)) ⟨_, _, _, rfl⟩).reply_eq nofun

/-- A read of the windows that is answered is answered with data, and it counts its draws. -/
theorem readWindowAnswer_next (h : readWindowAnswer n off s = .next t) :
    ∃ d, t = { s with reply := .data d,
                      draws := if ByteRead.unspecified ∈ s.readWindow n off then s.draws + n else s.draws } := by
  unfold readWindowAnswer at h
  split at h
  · cases h
  · cases h; exact ⟨_, rfl⟩

/-- The three ways a host read is answered: the bus refuses it, a register answers, or the windows do (R67). -/
theorem hostRead_cases (h : hostRead n off s = .next t) :
    (accessOk n off = false ∧ t = s.answer .busError) ∨ (∃ d, t = s.answer (.data d)) ∨ readWindowAnswer n off s = .next t := by
  unfold hostRead at h
  split at h
  · next hok => cases h; exact .inl ⟨hok, rfl⟩
  · split at h
    · cases h; exact .inr (.inl ⟨_, rfl⟩)
    · exact .inr (.inr h)

/-- A read that the bus admits, if it is answered, is answered with data. -/
theorem hostRead_reply (hok : accessOk n off = true) (h : hostRead n off s = .next t) : ∃ d, t.reply = .data d := by
  rcases hostRead_cases h with ⟨hno, -⟩ | ⟨d, rfl⟩ | hw
  · simp [hok] at hno
  · exact ⟨d, rfl⟩
  · obtain ⟨d, rfl⟩ := readWindowAnswer_next hw
    exact ⟨d, rfl⟩

/-- Outside COPY, ENGINE_WAIT and STAGES a host read draws nothing (log 12). -/
theorem hostRead_draws (hs : s.bankUnspecified = false) (h : hostRead n off s = .next t) : t.draws = s.draws := by
  rcases hostRead_cases h with ⟨-, rfl⟩ | ⟨d, rfl⟩ | hw
  · rfl
  · rfl
  · obtain ⟨d, rfl⟩ := readWindowAnswer_next hw
    exact if_neg (State.unspecified_not_mem hs n off)

/-- A host read does not depend on the answer to the access before it (log 5). -/
theorem hostRead_answer (n off : Nat) (s : State) (r : Reply) : hostRead n off (s.answer r) = hostRead n off s := rfl

/-- A read that drew nothing changed the bus answer and nothing else. -/
theorem hostRead_eq_answer (h : hostRead n off s = .next t) (hd : t.draws = s.draws) : t = s.answer t.reply := by
  have ht := hostRead_effect h
  rw [hd] at ht
  exact ht

end

/-! ### Window reads -/

/-- A read whose byte k holds the value g k answers these values as a little-endian word, and changes nothing (R62, R70). -/
theorem step_hostRead_values {s : State} {n off : Nat} (h1 : 0x01000 ≤ off) (h2 : off < 0x40000)
    (hn : n = 1 ∨ n = 2 ∨ n = 4) (ha : off % n = 0) (g : Nat → Byte)
    (hg : ∀ k < n, s.readTarget (targetAt (off + k)) = .value (g k)) :
    step (s.withNext (.hostRead n off)) = .next (s.answer (.data (leWord ((List.range n).map g)))) := by
  have hbytes : s.readWindow n off = ((List.range n).map g).map .value := by
    rw [List.map_map]
    exact List.map_congr_left fun k hk => hg k (List.mem_range.1 hk)
  exact (hostRead_window h1 h2 hn ha s).trans (readWindowAnswer_values hbytes)

/-- The state after a read is told by its data. -/
theorem next_data_congr (s : State) {d d' : Word} (h : d = d') :
    (.next (s.answer (.data d)) : Host.Outcome State Fault Refusal) = .next { s with reply := .data d' } := by
  rw [h]
  rfl

/-- A word of zero bytes is 0. -/
theorem leWord_replicate_zero (n : Nat) : leWord (List.replicate n 0#8) = 0#32 := by
  induction n with
  | zero => rfl
  | succ n ih => rw [List.replicate_succ, leWord, ih]; rfl

/-- A byte of the output bank that has been written reads as stored outside COPY, ENGINE_WAIT and STAGES. -/
theorem State.bankByte_some {s : State} (hs : s.bankUnspecified = false) (b : Byte) : s.bankByte (some b) = .value b :=
  State.bankByte_of_specified hs _

/-- A palette entry that has been written reads byte by byte as stored (R63). -/
theorem readTarget_palette {s : State} (hs : s.bankUnspecified = false) {i : Nat} {e : PaletteEntry}
    (he : s.palette.read i = some e) (k : Nat) : s.readTarget (.palette i k) = .value (e.byte k) := by
  rw [State.readTarget, he, Option.map_some, State.bankByte_some hs]

/-- A rotation entry that has been written reads byte by byte as stored, its flags as computed (R64). -/
theorem readTarget_rot {s : State} (hs : s.bankUnspecified = false) {j : Nat} {e : RotEntry}
    (he : s.rot.read j = some e) (k : Nat) : s.readTarget (.rot j k) = .value (e.byte k) := by
  rw [State.readTarget, he, Option.map_some, State.bankByte_some hs]

/-- Below L a plane byte that has been written reads as stored (R65). -/
theorem readTarget_plane {s : State} (hs : s.bankUnspecified = false) {p b : Nat} {v : Byte} (hb : b < s.planeLen)
    (hv : s.plane.read (planeKey p b) = some v) : s.readTarget (.plane p b) = .value v := by
  rw [State.readTarget, if_pos hb, hv, State.bankByte_some hs]

/-- At and above L a plane byte reads 0 in every phase (R65, log 13). -/
theorem readTarget_plane_above {s : State} {p b : Nat} (hb : s.planeLen ≤ b) : s.readTarget (.plane p b) = .value 0#8 :=
  if_neg (by omega)

/-- A byte of IN that has been written reads as stored (R66). -/
theorem readTarget_input {s : State} {i : Nat} {v : Byte} (hi : i < s.params.maxPixels) (hv : s.inp.read i = some v) :
    s.readTarget (.input i) = .value v := by
  rw [State.readTarget, if_pos hi, hv]
  rfl

/-- At and above MAX_PIXELS the IN window reads 0 (R66). -/
theorem readTarget_input_above {s : State} {i : Nat} (hi : s.params.maxPixels ≤ i) : s.readTarget (.input i) = .value 0#8 :=
  if_neg (by omega)

/-- An aligned read inside a palette entry, from its byte c (R63). -/
theorem step_hostRead_palette {s : State} (hs : s.bankUnspecified = false) {i : Nat} (hi : i < 64) {e : PaletteEntry}
    (he : s.palette.read i = some e) {n c : Nat} (hn : n = 1 ∨ n = 2 ∨ n = 4) (hc : c % n = 0) (hcn : c < 4) :
    step (s.withNext (.hostRead n (0x01000 + 4 * i + c)))
      = .next (s.answer (.data (leWord ((List.range n).map fun k => e.byte (c + k))))) := by
  refine step_hostRead_values (by omega) (by omega) hn (aligned_add hn (by omega) hc) _ fun k hk => ?_
  rw [Nat.add_assoc, targetAt_palette hi (aligned_add_lt hn hc hk rfl hcn), readTarget_palette hs he]

/-- An aligned read inside a rotation entry, from its byte c (R64). -/
theorem step_hostRead_rot {s : State} (hs : s.bankUnspecified = false) {j : Nat} (hj : j < 8) {e : RotEntry}
    (he : s.rot.read j = some e) {n c : Nat} (hn : n = 1 ∨ n = 2 ∨ n = 4) (hc : c % n = 0) (hcn : c < 4) :
    step (s.withNext (.hostRead n (0x01100 + 4 * j + c)))
      = .next (s.answer (.data (leWord ((List.range n).map fun k => e.byte (c + k))))) := by
  refine step_hostRead_values (by omega) (by omega) hn (aligned_add hn (by omega) hc) _ fun k hk => ?_
  rw [Nat.add_assoc, targetAt_rot hj (aligned_add_lt hn hc hk rfl hcn), readTarget_rot hs he]

/-- An aligned read of a plane window: byte k is g k below L, where that is what the plane byte reads as, and 0 at and above L
(R65). -/
theorem step_hostRead_plane {s : State} {p b : Nat} (hp : p < 6) (hb : b < 0x2000) {n : Nat} (hn : n = 1 ∨ n = 2 ∨ n = 4)
    (ha : b % n = 0) (g : Nat → Byte) (hg : ∀ k < n, b + k < s.planeLen → s.readTarget (.plane p (b + k)) = .value (g k)) :
    step (s.withNext (.hostRead n (0x20000 + 0x2000 * p + b)))
      = .next (s.answer (.data (leWord ((List.range n).map fun k => if b + k < s.planeLen then g k else 0#8)))) := by
  refine step_hostRead_values (by omega) (by omega) hn (aligned_add hn (by omega) ha) _ fun k hk => ?_
  rw [Nat.add_assoc, targetAt_plane hp (aligned_add_lt hn ha hk rfl hb)]
  split
  · next hL => exact hg k hk hL
  · next hL => exact readTarget_plane_above (by omega)

/-- In a bank that is full and specified, each byte of the output bank holds a value (R77). -/
theorem readTarget_bank {s : State} (hs : s.bankUnspecified = false) (hf : s.bankFull) {off : Nat}
    (h : (0x01000 ≤ off ∧ off < 0x01120) ∨ (0x20000 ≤ off ∧ off < 0x2C000)) :
    ∃ v, s.readTarget (targetAt off) = .value v := by
  obtain ⟨hpal, hrot, hplane⟩ := hf
  unfold targetAt
  split
  · next hp =>
    obtain ⟨e, he⟩ := Option.ne_none_iff_exists'.1 (hpal ((off - 0x01000) / 4) (by simp; omega))
    exact ⟨_, readTarget_palette hs he _⟩
  split
  · next hr =>
    obtain ⟨e, he⟩ := Option.ne_none_iff_exists'.1 (hrot ((off - 0x01100) / 4) (by simp; omega))
    exact ⟨_, readTarget_rot hs he _⟩
  rw [if_neg (by omega), if_pos (by omega)]
  by_cases hb : (off - 0x20000) % 0x2000 < s.planeLen
  · obtain ⟨v, hv⟩ := Option.ne_none_iff_exists'.1 (hplane ((off - 0x20000) / 0x2000) (by simp; omega) _ hb)
    exact ⟨v, readTarget_plane hs hb hv⟩
  · exact ⟨_, readTarget_plane_above (by omega)⟩

/-! ### The RAZ/WI offsets (R66, R68) and the writes that no window stores (R69) -/

/-- A byte at a reserved offset of the windows, or of the IN window at and above MAX_PIXELS, reads 0. -/
theorem readTarget_razwi {s : State} {off : Nat}
    (h : (0x01120 ≤ off ∧ off < 0x10000) ∨ (0x2C000 ≤ off ∧ off < 0x40000)
      ∨ (0x10000 + s.params.maxPixels ≤ off ∧ 0x10000 ≤ off ∧ off < 0x20000)) : s.readTarget (targetAt off) = .value 0#8 := by
  by_cases hin : 0x10000 ≤ off ∧ off < 0x20000
  · obtain ⟨i, rfl⟩ := Nat.exists_eq_add_of_le hin.1
    rw [targetAt_input (by omega)]
    exact readTarget_input_above (by omega)
  · rw [targetAt_reserved (by omega)]
    rfl

/-- Only the IN window leads to IN (R61). -/
theorem targetAt_eq_input {off i : Nat} (h : targetAt off = .input i) : off = 0x10000 + i ∧ i < 0x10000 := by
  unfold targetAt at h
  repeat' split at h
  all_goals simp only [Target.input.injEq, reduceCtorEq] at h
  omega

/-- A write that does not reach IN below MAX_PIXELS is ignored: the bus takes it, and nothing changes (R66, R68, R69). -/
theorem step_hostWrite_ignored {s : State} {n off : Nat} (h1 : 0x01000 ≤ off) (h2 : off < 0x40000)
    (hn : n = 1 ∨ n = 2 ∨ n = 4) (ha : off % n = 0) (v : Word)
    (hin : ∀ i, off = 0x10000 + i → i < 0x10000 → s.params.maxPixels ≤ i) :
    step (s.withNext (.hostWrite n off v)) = .next (s.answer .written) := by
  refine (hostWrite_window h1 h2 hn ha v s).trans (congrArg _ ?_)
  unfold writeWindow
  split
  · next i ht =>
    obtain ⟨hoff, hi⟩ := targetAt_eq_input ht
    exact if_neg (Nat.not_lt.2 (hin i hoff hi))
  all_goals rfl

/-- A read of a reserved register offset answers 0 (R22, R68). -/
theorem hostRead_reservedReg {off : Nat} (h1 : 0x34 ≤ off) (h2 : off < 0x01000) (ha : off % 4 = 0) (s : State) :
    hostRead 4 off s = .next (s.answer (.data 0#32)) := by
  have hok : accessOk 4 off = true := (accessOk_iff 4 off).2 (.inl ⟨h2, rfl, ha⟩)
  unfold hostRead
  rw [if_neg (by simp [hok]), if_pos h2, State.readRegAt, Reg.at?_eq_none h1]

/-- A write to a reserved register offset is ignored (R22, R68). -/
theorem hostWrite_reservedReg {off : Nat} (h1 : 0x34 ≤ off) (h2 : off < 0x01000) (ha : off % 4 = 0) (v : Word) (s : State) :
    hostWrite 4 off v s = .next (s.answer .written) := by
  have hok : accessOk 4 off = true := (accessOk_iff 4 off).2 (.inl ⟨h2, rfl, ha⟩)
  unfold hostWrite
  rw [if_neg (by simp [hok]), if_pos h2, Reg.at?_eq_none h1]

/-- A read-only register ignores a write (R69). -/
theorem writeReg_readOnly {r : Reg}
    (h : r ∈ [Reg.width, .height, .colorCount, .pixels, .planeLen, .frameCount, .paramMaxPixels, .paramNSub])
    (v : Word) (s : State) : writeReg r v s = .next s := by
  cases r with
  | cmd | status | inCount | loadArg | subEnable => simp at h
  | _ => rfl

/-- A write to STATUS with its two write-1-to-clear bits 0 changes nothing (R29 to R31). -/
theorem State.clearW1c_of_and_eq_zero {v : Word} (h : v &&& 0x00030000#32 = 0#32) (s : State) : s.clearW1c v = s := by
  have hbit (i : Nat) : (v.getLsbD i && (0x00030000#32).getLsbD i) = false := by
    rw [← BitVec.getLsbD_and, h, BitVec.getLsbD_zero]
  have h16 : v.getLsbD 16 = false := by simpa using hbit 16
  have h17 : v.getLsbD 17 = false := by simpa using hbit 17
  rw [State.clearW1c_eq_ite, h16, h17]
  rfl

/-! ### Writes to IN (R62, R66) -/

/-- A run of bytes that ends below MAX_PIXELS is stored whole on an idle block (R66). -/
theorem writeInput_idle {s : State} (hb : s.busy = false) {i : Nat} {bs : List Byte} (hi : i < s.params.maxPixels)
    (hfit : i + bs.length ≤ s.params.maxPixels) : writeInput i bs s = { s with inp := s.inp.writeRange i bs } := by
  unfold writeInput
  rw [if_pos hi, State.whenIdle_idle hb, List.take_of_length_le (by omega)]

/-- A word has n low bytes. -/
theorem leBytes_length (n : Nat) (v : Word) : (leBytes n v).length = n := by simp [leBytes]

/-- Byte k of the bytes of a word (R62). -/
theorem leBytes_getElem? {n k : Nat} (hk : k < n) (v : Word) : (leBytes n v)[k]? = some (v.extractLsb' (8 * k) 8) := by
  simp [leBytes, hk]

/-- An aligned write of n bytes to IN below MAX_PIXELS, on an idle block (R66). -/
theorem step_hostWrite_input {s : State} {n i : Nat} (hw : s.params.wf) (hb : s.busy = false) (hn : n = 1 ∨ n = 2 ∨ n = 4)
    (ha : i % n = 0) (hi : i + n ≤ s.params.maxPixels) (v : Word) :
    step (s.withNext (.hostWrite n (0x10000 + i) v))
      = .next { s with reply := .written, inp := s.inp.writeRange i (leBytes n v) } := by
  obtain ⟨-, hmax, -⟩ := hw
  refine (hostWrite_window (by omega) (by omega) hn (aligned_add hn rfl ha) v s).trans (congrArg _ ?_)
  have hlt : i < s.params.maxPixels := by omega
  have hfit : i + (leBytes n v).length ≤ s.params.maxPixels := by rwa [leBytes_length]
  unfold writeWindow
  rw [targetAt_input (by omega)]
  exact writeInput_idle (s := s.answer .written) hb hlt hfit

/-! ### The layout of an entry (R63, R64) -/

/-- Where the aligned reads of the four bytes at an offset give the bytes f 0 to f 3, these are the word, the two halfwords and
the four bytes they give. -/
theorem entry_reads {s : State} {base : Nat} {f : Nat → Byte}
    (h : ∀ n c, (n = 1 ∨ n = 2 ∨ n = 4) → c % n = 0 → c < 4 → step (s.withNext (.hostRead n (base + c)))
      = .next (s.answer (.data (leWord ((List.range n).map fun k => f (c + k)))))) :
    step (s.withNext (.hostRead 4 base)) = .next { s with reply := .data (f 3 ++ f 2 ++ f 1 ++ f 0) }
    ∧ step (s.withNext (.hostRead 2 (base + 0))) = .next { s with reply := .data (0#16 ++ f 1 ++ f 0) }
    ∧ step (s.withNext (.hostRead 2 (base + 2))) = .next { s with reply := .data (0#16 ++ f 3 ++ f 2) }
    ∧ ∀ c < 4, step (s.withNext (.hostRead 1 (base + c))) = .next { s with reply := .data ((f c).setWidth 32) } := by
  refine ⟨?_, ?_, ?_, fun c hc => ?_⟩
  · exact (h 4 0 (by simp) rfl (by omega)).trans (next_data_congr s (leWord_four ..))
  · exact (h 2 0 (by simp) rfl (by omega)).trans (next_data_congr s (leWord_two ..))
  · exact (h 2 2 (by simp) rfl (by omega)).trans (next_data_congr s (leWord_two ..))
  · exact (h 1 c (by simp) (Nat.mod_one c) hc).trans (next_data_congr s (leWord_one _))

/-- The palette word of R152. -/
theorem opaque_word_eq (r g b : Byte) : 0xFF#8 ++ b ++ g ++ r
    = 0xFF000000#32 ||| (b.setWidth 32 <<< 16) ||| (g.setWidth 32 <<< 8) ||| r.setWidth 32 := by
  apply BitVec.eq_of_getLsbD_eq
  intro i hi
  rw [BitVec.getLsbD_append, BitVec.getLsbD_append, BitVec.getLsbD_append]
  interval_cases i <;> simp

/-- The flags byte of a rotation entry as a word (R64). -/
theorem RotEntry.flags_setWidth (e : RotEntry) : (e.byte 3).setWidth 32 = if e.count = 0#8 then 0#32 else 1#32 := by
  by_cases h : e.count = 0#8 <;> simp [RotEntry.byte, RotEntry.active, h]

end Sys2Proof.Machine
end

section
/-! The obligations of 20_memory.md. -/

namespace Sys2Proof.Machine

/-- Settles O40, by the bus rules: what they refuse is a bus error, and what they admit is answered otherwise. -/
theorem busErrorsChangeNothing : Obligations.BusErrorsChangeNothing := by
  intro s n off v
  constructor
  · intro h
    have hok := accessOk_eq_false h
    exact ⟨hostWrite_busError hok v s, hostRead_busError hok s, rfl⟩
  · intro h
    have hok := (accessOk_iff n off).2 h
    exact ⟨fun t ht => hostWrite_reply hok ht, fun t ht => hostRead_reply hok ht⟩

/-- Settles O41, by the two kinds of RAZ/WI offsets: of the registers and of the windows. -/
theorem reservedOffsetsReadZeroIgnoreWrites : Obligations.ReservedOffsetsReadZeroIgnoreWrites := by
  intro s n off v h
  rcases h with ⟨h1, h2, rfl, ha⟩ | ⟨hr, hn, ha⟩
  · exact ⟨hostRead_reservedReg h1 h2 ha s, hostWrite_reservedReg h1 h2 ha v s⟩
  · refine ⟨?_, step_hostWrite_ignored (by omega) (by omega) hn ha v fun i hi _ => by omega⟩
    have hzero : ∀ k < n, s.readTarget (targetAt (off + k)) = .value 0#8 := fun k hk => by
      have hbelow (bound : Nat) (hb : bound % 4 = 0) (h : off < bound) : off + k < bound := aligned_add_lt hn ha hk hb h
      have h1 := hbelow 0x10000 rfl
      have h2 := hbelow 0x40000 rfl
      have h3 := hbelow 0x20000 rfl
      exact readTarget_razwi (by omega)
    rw [step_hostRead_values (by omega) (by omega) hn ha _ hzero]
    exact next_data_congr s (by simp [leWord_replicate_zero])

/-- Settles O43: a read that draws nothing changes the bus answer only, and no read depends on that. -/
theorem readsHaveNoSideEffect : Obligations.ReadsHaveNoSideEffect := by
  refine ⟨fun s t n off h => ⟨hostRead_effect h, fun hs => ?_⟩, fun s t i n off h => subscriberRead_effect h⟩
  have hd : t.draws = s.draws := hostRead_draws hs h
  refine ⟨hd, ?_⟩
  calc hostRead n off t = hostRead n off (s.answer t.reply) := congrArg _ (hostRead_eq_answer h hd)
    _ = hostRead n off s := hostRead_answer n off s t.reply
    _ = .next t := h

/-- Settles O45, by the run of cells the write leaves in IN. -/
theorem inputAccessesAreLittleEndian : Obligations.InputAccessesAreLittleEndian := by
  intro s n i v hw hb hn ha hi
  have hlen := leBytes_length n v
  have hin : ∀ k < n, (s.inp.writeRange i (leBytes n v)).read (i + k) = some (v.extractLsb' (8 * k) 8) := fun k hk => by
    rw [Memory.read_writeRange_in _ (by omega) (by omega), Nat.add_sub_cancel_left, leBytes_getElem? hk]
  refine ⟨_, step_hostWrite_input hw hb hn ha hi v, rfl, hin,
    fun a h => Memory.read_writeRange_out _ (by omega), ?_⟩
  obtain ⟨-, hmax, -⟩ := hw
  rw [step_hostRead_values (by omega) (by omega) hn (aligned_add hn rfl ha)
    (fun k => v.extractLsb' (8 * k) 8) fun k hk => ?_]
  · exact next_data_congr _ (leWord_leBytes n v)
  · rw [Nat.add_assoc, targetAt_input (by omega)]
    exact readTarget_input (show i + k < s.params.maxPixels by omega) (hin k hk)

/-- Settles O46, by the bytes of one entry and, after MARSHAL, by the entry it writes. -/
theorem paletteEntryLayout : Obligations.PaletteEntryLayout := by
  intro s i hi hs
  constructor
  · intro e he
    obtain ⟨hword, hlow, hhigh, hbyte⟩ := entry_reads fun _ _ => step_hostRead_palette hs hi he
    exact ⟨hword, hlow, hhigh, hbyte 0 (by omega), hbyte 1 (by omega), hbyte 2 (by omega), hbyte 3 (by omega)⟩
  · have he : (marshal s).palette.read i = some (s.marshalEntry i) := by
      rw [State.marshal_palette, Memory.read_writeRange_map, if_pos hi]
    obtain ⟨hword, -⟩ := entry_reads fun _ _ => step_hostRead_palette (s := marshal s) hs hi he
    exact hword.trans (next_data_congr _ (opaque_word_eq ..))

/-- Settles O47, by the bytes of one entry. -/
theorem rotationEntryLayout : Obligations.RotationEntryLayout := by
  intro s j e hj hs he
  obtain ⟨hword, hlow, hhigh, hbyte⟩ := entry_reads fun _ _ => step_hostRead_rot hs hj he
  exact ⟨hword, hlow, hhigh, hbyte 0 (by omega), hbyte 1 (by omega), hbyte 2 (by omega),
    (hbyte 3 (by omega)).trans (next_data_congr s e.flags_setWidth)⟩

/-- Settles O48: each clause is the one read of a plane window, with the bytes it names below L. -/
theorem planeWindowLayout : Obligations.PlaneWindowLayout := by
  intro s p b hp hb
  refine ⟨fun v hL hs hv => ?_, fun v0 v1 v2 v3 ha hL hs h0 h1 h2 h3 => ?_, fun n byte hn ha hs hbyte => ?_,
    fun n hn ha hL => ?_⟩
  · rw [step_hostRead_plane hp hb (by simp) (Nat.mod_one b) (fun _ => v) fun k hk _ => ?_]
    · exact next_data_congr s (by simp [hL, leWord_one])
    · obtain rfl : k = 0 := by omega
      exact readTarget_plane hs hL hv
  · have hbytes : ∀ k < 4, s.plane.read (planeKey p (b + k)) = some ([v0, v1, v2, v3].getD k 0#8) := fun k hk => by
      interval_cases k
      exacts [h0, h1, h2, h3]
    rw [step_hostRead_plane hp hb (by simp) ha (fun k => [v0, v1, v2, v3].getD k 0#8)
      fun k hk hkL => readTarget_plane hs hkL (hbytes k hk)]
    have hbelow : ∀ k < 4, b + k < s.planeLen := fun k hk => by omega
    exact next_data_congr s (by simp [List.range_succ, hbelow, show b < s.planeLen by omega, leWord_four])
  · refine ⟨_, step_hostRead_plane hp hb hn ha byte fun k hk hkL => readTarget_plane hs hkL (hbyte k hk hkL), fun k hk => ?_⟩
    rw [extract_leWord _ hk]
    by_cases hkn : k < n <;> simp [List.getD_eq_getElem?_getD, hkn]
  · rw [step_hostRead_plane hp hb hn ha (fun _ => 0#8) fun k _ hkL => absurd hkL (by omega)]
    exact next_data_congr s (by simp [leWord_replicate_zero])

/-- Settles O57, by the effect of one step. -/
theorem canonicalMemoriesAreKept : Obligations.CanonicalMemoriesAreKept := by
  intro s t hm h
  obtain ⟨u, _, _, _, hu, rfl⟩ := step_next_eq h
  exact hu.keeps_memInv hm

/-- Settles O51: a published bank is full and specified, so each byte of the access holds a value. -/
theorem publishedBankReadsAreAnswered : Obligations.PublishedBankReadsAreAnswered := by
  rintro s n off ⟨-, -, -, ⟨-, -, hpub⟩, -⟩ hp hn ha hv
  have hs : s.bankUnspecified = false := by rw [State.bankUnspecified, hp]
  have hbyte : ∀ k, ∃ v, k < n → s.readTarget (targetAt (off + k)) = .value v := fun k => by
    by_cases hk : k < n
    · have h1 : off < 0x01120 → off + k < 0x01120 := aligned_add_lt hn ha hk rfl
      have h2 : off < 0x2C000 → off + k < 0x2C000 := aligned_add_lt hn ha hk rfl
      obtain ⟨v, hv⟩ := readTarget_bank hs (hpub hp) (off := off + k) (by omega)
      exact ⟨v, fun _ => hv⟩
    · exact ⟨0#8, fun h => absurd h hk⟩
  choose g hg using hbyte
  exact ⟨_, step_hostRead_values (by omega) (by omega) hn ha g hg⟩

/-- Settles O42, register by register and window by window. -/
theorem readOnlyTargetsIgnoreWrites : Obligations.ReadOnlyTargetsIgnoreWrites := by
  intro s v
  refine ⟨fun r hr => ?_, fun h => ?_, fun n off hn ha hv => ?_, step_hostRead_reg s .cmd⟩
  · exact (step_hostWrite_reg s r v).trans (writeReg_readOnly hr v _)
  · exact (step_hostWrite_reg s .status v).trans (congrArg _ (State.clearW1c_of_and_eq_zero h _))
  · exact step_hostWrite_ignored (by omega) (by omega) hn ha v fun i _ _ => by omega

/-- Settles O44: in its view the subscriber's read is the host's, and the bus refuses every other. -/
theorem subscribersSeeTheHostsBytes : Obligations.SubscribersSeeTheHostsBytes := by
  intro s i n off hi
  rw [← inSubscriberView_iff off]
  refine ⟨subscriberRead_inView hi n, fun h => ?_⟩
  cases hv : inSubscriberView off with
  | false => exact subscriberRead_outOfView hi n hv
  | true =>
    have hoff := (inSubscriberView_iff off).1 hv
    have hbad : ¬ ((n = 1 ∨ n = 2 ∨ n = 4) ∧ off % n = 0) := fun ⟨hn, ha⟩ =>
      h.elim (· hv) (·.elim (· hn) (· ha))
    have hok : accessOk n off = false := accessOk_eq_false (by omega)
    exact (subscriberRead_inView hi n hv).trans (hostRead_busError hok s)

end Sys2Proof.Machine
end

section
/-! The command word by its fields, what a CMD write of an illegal word does, and the schedules of SEQ and WAIT. -/

namespace Sys2Proof.Machine

/-- A command word is its two fields (R90). -/
theorem rsvField_append_opcField (w : Word) : rsvField w ++ opcField w = w :=
  BitVec.extractLsb'_append_extractLsb' (w := 24) (len := 8)

/-- The encoding of every command has the fields of the opcode map and decodes to the command (R92). -/
theorem encoding_statement (i : Instr) : Laws.Encoding.Statement i :=
  match i with
  | .load => Laws.Encoding.load
  | .colorize => Laws.Encoding.colorize
  | .dispose => Laws.Encoding.dispose

theorem decodeWord_encode (i : Instr) : decodeWord (encode i) = .command i := by
  obtain ⟨-, -, -, hd⟩ := encoding_statement i
  exact hd

/-- The decoder answers a command only where RSV is 0 and OPC is the command's opcode. -/
theorem fields_of_decodeWord_eq_command {w : Word} {i : Instr} (h : decodeWord w = .command i) :
    rsvField w = 0#24 ∧ opcField w = opcode i := by
  unfold decodeWord at h
  split at h
  · cases h
  · next hr =>
    refine ⟨not_not.1 hr, ?_⟩
    split at h
    · next ho => cases h; exact ho
    · split at h
      · next ho => cases h; exact ho
      · split at h
        · next ho => cases h; exact ho
        · cases h

/-- R92: a word selects a command exactly when it is the command's word. -/
theorem decodeWord_eq_command_iff {w : Word} {i : Instr} : decodeWord w = .command i ↔ w = encode i := by
  constructor
  · intro h
    obtain ⟨hr, ho⟩ := fields_of_decodeWord_eq_command h
    calc w = rsvField w ++ opcField w := (rsvField_append_opcField w).symm
      _ = encode i := by rw [hr, ho, encode]
  · rintro rfl
    exact decodeWord_encode i

/-- R94: a 32-bit word is a table word of 32 bits. -/
theorem tableWord_toNat (w : Word) : tableWord 32 w.toNat = some w := by
  rw [tableWord, Nat.mod_eq_of_lt w.isLt, if_pos w.isLt, BitVec.ofNat_toNat, BitVec.setWidth_eq]

theorem decodeTableWord_of_command {w : Word} {i : Instr} (h : decodeWord w = .command i) :
    decodeTableWord 32 w.toNat = some i := by
  simp only [decodeTableWord, tableWord_toNat, h]

/-- On an idle block the error entry leaves PHASE as it is (R212). -/
theorem State.raiseErr_idle {s : State} (hb : s.busy = false) (c : ErrCode) :
    s.raiseErr c = { s with err := c, errSticky := true } := by
  rw [State.raiseErr, ← State.busy_eq_false.1 hb]

/-- On a busy block a CMD write is dropped before it is decoded (R236). -/
theorem submitCommand_busy {s : State} (hb : s.busy = true) (w : Word) : submitCommand w s = .next s.dropWrite :=
  if_pos hb

/-- On an idle block a word that selects no command raises E_ILLEGAL_CMD (R93). -/
theorem submitCommand_illegal {s : State} {w : Word} (hb : s.busy = false) (hw : ∀ i, decodeWord w ≠ .command i) :
    submitCommand w s = .next (s.raiseErr .illegalCmd) := by
  unfold submitCommand
  rw [if_neg (by simp [hb])]
  split
  · next i hd => exact absurd hd (hw i)
  · rfl
  · rfl

/-- A step that submits a command word, the bus having taken the write (R23). -/
theorem step_cmdWord (s : State) (w : Word) : step (s.withNext (.cmdWord w)) = submitCommand w (s.answer .written) :=
  step_hostWrite_reg s .cmd w

/-- The steps of the host are its writes, its reads and its waits (R95, R96). -/
theorem Event.isHost_iff (e : Event) :
    e.isHost = true ↔ (∃ n off v, e = .hostWrite n off v) ∨ (∃ n off, e = .hostRead n off) ∨ e = .wait := by
  cases e <;> simp [Event.isHost]

theorem seqStep_enabled {s : State} (h : s.blockEnabled = true) :
    seqStep s = { blockStep s with script := .seq :: s.script } := if_pos h

theorem seqStep_disabled {s : State} (h : s.blockEnabled = false) : seqStep s = s := by
  rw [seqStep, h]; rfl

theorem waitStep_idle {s : State} (hb : s.busy = false) : waitStep s = s.answer (.data s.status) := by
  rw [waitStep, hb]; rfl

theorem waitStep_busy {s : State} (hb : s.busy = true) :
    waitStep s = { s with reply := .data s.status, script := waitAgain s.script } := by
  rw [waitStep, hb]; rfl

/-- After a WAIT that read BUSY = 1 another agent's next step comes before the WAIT (log 18). -/
theorem waitAgain_of_not_isHost {e : Event} (he : e.isHost = false) (es : List Event) :
    waitAgain (e :: es) = e :: .wait :: es := by
  rw [waitAgain, he]; rfl

/-- After a WAIT that read BUSY = 1 a host step stays behind the WAIT (log 18). -/
theorem waitAgain_of_isHost {e : Event} (he : e.isHost = true) (es : List Event) :
    waitAgain (e :: es) = .block :: .wait :: e :: es := by
  rw [waitAgain, he]; rfl

end Sys2Proof.Machine
end

section
/-! The obligations of 30_encoding.md. -/

namespace Sys2Proof.Machine

/-- Settles O1: a command's word decodes to it, and the table numbers its 32 bits as the word does. -/
theorem decodeOfEncodeIsTheCommand : Obligations.DecodeOfEncodeIsTheCommand := fun i _ =>
  ⟨decodeWord_encode i, decodeTableWord_of_command (decodeWord_encode i)⟩

/-- Settles O2: the three words are the encodings of the three commands. -/
theorem commandWordsSelectExactly : Obligations.CommandWordsSelectExactly := fun _ =>
  ⟨decodeWord_eq_command_iff (i := .load), decodeWord_eq_command_iff (i := .colorize),
    decodeWord_eq_command_iff (i := .dispose)⟩

/-- Settles O3, by running the decoder on each word. -/
theorem writtenOutWordsDecode : Obligations.WrittenOutWordsDecode := by
  unfold Obligations.WrittenOutWordsDecode
  decide

/-- Settles O4: the fields of an illegal word are those of no command, and a busy block decodes no word. -/
theorem illegalWordEndsWithIllegalCmd : Obligations.IllegalWordEndsWithIllegalCmd := by
  refine ⟨fun s w hb hw => ?_,
    fun s w hb => (step_cmdWord s w).trans (submitCommand_busy (s := s.answer .written) hb w)⟩
  have hillegal : ∀ i, decodeWord w ≠ .command i := fun i hd => by
    obtain ⟨hr, ho⟩ := fields_of_decodeWord_eq_command hd
    obtain hrsv | ⟨h1, h2, h3⟩ := hw
    · exact hrsv hr
    · cases i with
      | load => exact h1 ho
      | colorize => exact h2 ho
      | dispose => exact h3 ho
  have hidle : (s.answer .written).busy = false := hb
  rw [step_cmdWord, submitCommand_illegal hidle hillegal, State.raiseErr_idle hidle]
  rfl

/-- Settles O55, by the cases of SEQ and of WAIT. -/
theorem seqAndWaitGoOnAsLongAsTheyMust : Obligations.SeqAndWaitGoOnAsLongAsTheyMust := by
  refine ⟨Event.isHost_iff, fun s => ⟨fun h => congrArg _ (seqStep_enabled h), fun h => congrArg _ (seqStep_disabled h),
    fun hb => congrArg _ (waitStep_idle hb), ?_⟩⟩
  have hwait (hb : s.busy = true) : step (s.withNext .wait)
      = .next { s with reply := .data s.status, script := waitAgain s.script } := congrArg _ (waitStep_busy hb)
  refine ⟨fun hb e rest hs he => ?_, fun hb e rest hs he => ?_, fun hb hs => ?_⟩
  · rw [hwait hb, hs, waitAgain_of_not_isHost he]
  · rw [hwait hb, hs, waitAgain_of_isHost he]
  · rw [hwait hb, hs, waitAgain]

end Sys2Proof.Machine
end

section
/-! What a command does on an idle block in each lifecycle state, when a request is outstanding on the engine port, and what the
engine's LOAD and DISPOSE answers do. -/

namespace Sys2Proof.Machine

/-! ### The commands on an idle block, by the lifecycle state -/

/-- The lifecycle states as equations: a case split that leaves the field in the state it is read from. -/
theorem Lifecycle.eq_cases (l : Lifecycle) : l = .unloaded ∨ l = .loaded ∨ l = .disposed := by
  cases l <;> simp

section
variable {s t : State} (hb : s.busy = false)
include hb

/-- R111: LOAD in UNLOADED asks the engine. -/
theorem exec_load_of_unloaded (hl : s.lifecycle = .unloaded) : exec .load s = .next { s with phase := .loadWait } := by
  simp only [exec, execLoad, State.whenIdle_idle hb, hl]

theorem exec_load_of_loaded (hl : s.lifecycle = .loaded) :
    exec .load s = .next { s with err := .alreadyLoaded, errSticky := true } := by
  simp only [exec, execLoad, State.whenIdle_idle hb, hl, State.raiseErr_idle hb]

theorem exec_load_of_disposed (hl : s.lifecycle = .disposed) :
    exec .load s = .next { s with err := .disposed, errSticky := true } := by
  simp only [exec, execLoad, State.whenIdle_idle hb, hl, State.raiseErr_idle hb]

/-- R114: DISPOSE in LOADED asks the engine. -/
theorem exec_dispose_of_loaded (hl : s.lifecycle = .loaded) :
    exec .dispose s = .next { s with phase := .disposeWait } := by
  simp only [exec, execDispose, State.whenIdle_idle hb, hl]

/-- R114: DISPOSE in UNLOADED completes at once. -/
theorem exec_dispose_of_unloaded (hl : s.lifecycle = .unloaded) :
    exec .dispose s = .next { s with lifecycle := .disposed, err := .ok } := by
  simp only [exec, execDispose, State.whenIdle_idle hb, hl, State.complete, ← State.busy_eq_false.1 hb]

theorem exec_dispose_of_disposed (hl : s.lifecycle = .disposed) :
    exec .dispose s = .next { s with err := .disposed, errSticky := true } := by
  simp only [exec, execDispose, State.whenIdle_idle hb, hl, State.raiseErr_idle hb]

/-- R171: COLORIZE in LOADED, the input of the size that the dimensions ask for. -/
theorem exec_colorize_of_loaded (hl : s.lifecycle = .loaded) (hn : s.inCount = s.pixels) :
    exec .colorize s = .next { s with phase := .copy } := by
  simp only [exec, execColorize, State.whenIdle_idle hb, hl, if_neg (not_not.2 hn)]

theorem exec_colorize_of_dim (hl : s.lifecycle = .loaded) (hn : s.inCount ≠ s.pixels) :
    exec .colorize s = .next { s with err := .dim, errSticky := true } := by
  simp only [exec, execColorize, State.whenIdle_idle hb, hl, if_pos hn, State.raiseErr_idle hb]

theorem exec_colorize_of_unloaded (hl : s.lifecycle = .unloaded) :
    exec .colorize s = .next { s with err := .notLoaded, errSticky := true } := by
  simp only [exec, execColorize, State.whenIdle_idle hb, hl, State.raiseErr_idle hb]

theorem exec_colorize_of_disposed (hl : s.lifecycle = .disposed) :
    exec .colorize s = .next { s with err := .disposed, errSticky := true } := by
  simp only [exec, execColorize, State.whenIdle_idle hb, hl, State.raiseErr_idle hb]

/-- A command on an idle block enters a phase, raises an error, or is the DISPOSE that completes at once. -/
theorem exec_idle_cases {i : Instr} (h : exec i s = .next t) :
    (∃ p, t = { s with phase := p }) ∨ (∃ c, t = { s with err := c, errSticky := true })
    ∨ (i = .dispose ∧ t = { s with lifecycle := .disposed, err := .ok }) := by
  have next_eq {u : State} (hu : exec i s = .next u) : t = u := Host.Outcome.next.inj (h.symm.trans hu)
  cases i with
  | load =>
    rcases s.lifecycle.eq_cases with hl | hl | hl
    · exact .inl ⟨_, next_eq (exec_load_of_unloaded hb hl)⟩
    · exact .inr (.inl ⟨_, next_eq (exec_load_of_loaded hb hl)⟩)
    · exact .inr (.inl ⟨_, next_eq (exec_load_of_disposed hb hl)⟩)
  | colorize =>
    rcases s.lifecycle.eq_cases with hl | hl | hl
    · exact .inr (.inl ⟨_, next_eq (exec_colorize_of_unloaded hb hl)⟩)
    · by_cases hn : s.inCount = s.pixels
      · exact .inl ⟨_, next_eq (exec_colorize_of_loaded hb hl hn)⟩
      · exact .inr (.inl ⟨_, next_eq (exec_colorize_of_dim hb hl hn)⟩)
    · exact .inr (.inl ⟨_, next_eq (exec_colorize_of_disposed hb hl)⟩)
  | dispose =>
    rcases s.lifecycle.eq_cases with hl | hl | hl
    · exact .inr (.inr ⟨rfl, next_eq (exec_dispose_of_unloaded hb hl)⟩)
    · exact .inl ⟨_, next_eq (exec_dispose_of_loaded hb hl)⟩
    · exact .inr (.inl ⟨_, next_eq (exec_dispose_of_disposed hb hl)⟩)

end

/-! ### The request on the engine port (R117) -/

/-- A request is outstanding in exactly the three phases that wait for the engine. -/
theorem State.engineRequest_ne_none_iff {s : State} :
    s.engineRequest ≠ none ↔ s.phase = .loadWait ∨ s.phase = .disposeWait ∨ s.phase = .engineWait := by
  unfold State.engineRequest
  cases s.phase <;> simp

theorem State.busy_of_engineRequest {s : State} (h : s.engineRequest ≠ none) : s.busy = true := by
  rw [State.busy_eq_true]
  rcases State.engineRequest_ne_none_iff.1 h with hp | hp | hp <;> simp [hp]

theorem State.engineRequest_of_idle {s : State} (hb : s.busy = false) : s.engineRequest = none := by
  by_contra h
  simp [State.busy_of_engineRequest h] at hb

/-- DISPOSE_WAIT belongs to LOADED (R52). -/
theorem State.loaded_of_disposeWait {s : State} (hi : s.stateInv) (hp : s.phase = .disposeWait) : s.lifecycle = .loaded := by
  obtain ⟨-, -, -, -, -, -, -, hd⟩ := hi
  exact hd hp

/-- ENGINE_WAIT belongs to LOADED (R52). -/
theorem State.loaded_of_engineWait {s : State} (hi : s.stateInv) (hp : s.phase = .engineWait) : s.lifecycle = .loaded := by
  obtain ⟨-, -, -, -, -, hc, -⟩ := hi
  exact hc (.inr (.inl hp))

/-- Each phase that holds a request belongs to UNLOADED or LOADED, so none is outstanding in DISPOSED. -/
theorem State.engineRequest_of_disposed {s : State} (hi : s.stateInv) (hl : s.lifecycle = .disposed) :
    s.engineRequest = none := by
  by_contra hr
  rcases State.engineRequest_ne_none_iff.1 hr with hp | hp | hp
  · exact nomatch hl.symm.trans (State.unloaded_of_loadWait hi hp)
  · exact nomatch hl.symm.trans (State.loaded_of_disposeWait hi hp)
  · exact nomatch hl.symm.trans (State.loaded_of_engineWait hi hp)

section
variable {e : Option Event} {s u : State}

/-- While a request is outstanding, an effect leaves it as it is or ends it: an effect that makes a request or writes one of its
operands needs an idle block or the phase COPY, where there is none. -/
theorem Effect.keeps_or_ends_request (h : Effect e s u) (hr : s.engineRequest ≠ none) :
    u.engineRequest = s.engineRequest ∨ u.engineRequest = none := by
  cases h with
  | loadArg _ hb | loadAccepted hb | disposeAccepted hb => exact absurd (State.engineRequest_of_idle hb) hr
  | copied hp => simp [State.engineRequest, hp] at hr
  | same | dropped | w1c | inCount | subEnable | input | acknowledged => exact .inl rfl
  | refused | colorizeAccepted | disposedAtOnce | loadFailed | loaded | disposed | answered | staged | completed | wasReset =>
    exact .inr rfl

/-! ### Who writes STATE (R24, R116) -/

/-- STATE is written by a LOAD answer that completes LOAD, by DISPOSE and by RST. -/
theorem Effect.lifecycle_writers (h : Effect e s u) :
    u.lifecycle = s.lifecycle
    ∨ (s.phase = .loadWait ∧ u.phase = .idle ∧ u.lifecycle = .loaded)
    ∨ ((s.lifecycle = .unloaded ∨ s.phase = .disposeWait) ∧ u.lifecycle = .disposed)
    ∨ (e = some .rst ∧ u.lifecycle = .unloaded) := by
  cases h with
  | loaded _ _ _ hp => exact .inr (.inl ⟨hp, rfl, rfl⟩)
  | disposedAtOnce _ hl => exact .inr (.inr (.inl ⟨.inl hl, rfl⟩))
  | disposed hp => exact .inr (.inr (.inl ⟨.inr hp, rfl⟩))
  | wasReset hh => exact .inr (.inr (.inr ⟨hh, rfl⟩))
  | _ => exact .inl rfl

end

/-! ### The engine's answers -/

/-- The geometry LOAD accepts, in the signed numbers of R113. -/
theorem State.geometryOk_iff {s : State} {w h : Word} :
    s.geometryOk w h = true ↔ 1 ≤ w.toInt ∧ 1 ≤ h.toInt ∧ w.toInt * h.toInt ≤ s.params.maxPixels :=
  decide_eq_true_iff

section
variable {s : State} (hp : s.phase = .loadWait)
include hp

theorem engineLoadAnswer_of_fail (w h cc : Word) : engineLoadAnswer false w h cc s = s.raiseErr .loadFail := by
  rw [engineLoadAnswer, if_neg (not_not.2 hp)]; rfl

theorem engineLoadAnswer_of_badGeometry {w h : Word} (hg : s.geometryOk w h = false) (cc : Word) :
    engineLoadAnswer true w h cc s = s.raiseErr .loadGeom := by
  rw [engineLoadAnswer, if_neg (not_not.2 hp), hg]; rfl

theorem engineLoadAnswer_of_geometryOk {w h : Word} (hg : s.geometryOk w h = true) (cc : Word) :
    engineLoadAnswer true w h cc s
      = { s.complete with width := w, height := h, colorCount := cc, lifecycle := .loaded } := by
  rw [engineLoadAnswer, if_neg (not_not.2 hp), hg]; rfl

end

theorem engineDisposeAnswer_of_disposeWait {s : State} (hp : s.phase = .disposeWait) :
    engineDisposeAnswer s = { s.complete with lifecycle := .disposed } :=
  if_neg (not_not.2 hp)

end Sys2Proof.Machine
end

section
/-! The obligations of 40_engine_binding.md. -/

namespace Sys2Proof.Machine

/-- Settles O15, by the writers of STATE: the invariants of R52 give the lifecycle state that each waiting phase belongs to. -/
theorem lifecycleMovesForwardOnly : Obligations.LifecycleMovesForwardOnly := by
  intro s t hi h
  obtain ⟨u, _, _, _, hu, rfl⟩ := step_next_eq h
  rcases hu.lifecycle_writers with hsame | ⟨hp, hidle, hl⟩ | ⟨hl | hp, hd⟩ | ⟨he, hz⟩
  · exact .inl hsame
  · exact .inr (.inl ⟨State.unloaded_of_loadWait hi hp, hl, hp, hidle⟩)
  · exact .inr (.inr (.inl ⟨by simp [hl], hd⟩))
  · exact .inr (.inr (.inl ⟨by simp [State.loaded_of_disposeWait hi hp], hd⟩))
  · exact .inr (.inr (.inr ⟨resetNext_of_head? he, hz⟩))

/-- Settles O18: a request belongs to a waiting phase, and no effect of a step changes it but by ending it. -/
theorem atMostOneUnchangingEngineRequest : Obligations.AtMostOneUnchangingEngineRequest := by
  refine ⟨fun _ => State.busy_of_engineRequest, fun _ => State.engineRequest_of_disposed, fun s t hr h => ?_⟩
  obtain ⟨u, _, _, _, hu, rfl⟩ := step_next_eq h
  exact hu.keeps_or_ends_request hr

/-- Settles O7, by LOAD in each lifecycle state. -/
theorem loadAcceptance : Obligations.LoadAcceptance := fun _ hb =>
  ⟨fun hl => ⟨_, exec_load_of_unloaded hb hl, rfl, rfl, rfl⟩,
    fun hl => ⟨_, exec_load_of_loaded hb hl, rfl, State.engineRequest_of_idle hb⟩,
    fun hl => ⟨_, exec_load_of_disposed hb hl, rfl, State.engineRequest_of_idle hb⟩⟩

/-- Settles O8, by DISPOSE in each lifecycle state. -/
theorem disposeAcceptance : Obligations.DisposeAcceptance := fun _ hb =>
  ⟨fun hl => ⟨_, exec_dispose_of_loaded hb hl, rfl, rfl, rfl⟩,
    fun hl => ⟨_, exec_dispose_of_unloaded hb hl, rfl, State.engineRequest_of_idle hb⟩,
    fun hl => ⟨_, exec_dispose_of_disposed hb hl, rfl, State.engineRequest_of_idle hb⟩⟩

/-- Settles O10: on a busy block the write is dropped, on an idle one a command has one of three forms, none of which touches a
memory. -/
theorem commandFrame : Obligations.CommandFrame := by
  intro i s t h
  cases hb : s.busy with
  | true =>
    rw [exec_busy i hb] at h
    cases h
    exact ⟨rfl, fun _ => rfl, fun _ => rfl, nofun, fun _ => ⟨rfl, rfl, rfl, rfl, rfl, rfl, rfl⟩⟩
  | false =>
    rcases exec_idle_cases hb h with ⟨p, rfl⟩ | ⟨c, rfl⟩ | ⟨hi, rfl⟩
    · exact ⟨rfl, fun _ => rfl, nofun, fun _ => rfl, fun _ => ⟨rfl, rfl, rfl, rfl, rfl, rfl, rfl⟩⟩
    · exact ⟨rfl, fun _ => rfl, nofun, fun _ => rfl, fun _ => ⟨rfl, rfl, rfl, rfl, rfl, rfl, rfl⟩⟩
    · exact ⟨rfl, fun hne => absurd hi hne, nofun, fun _ => rfl, fun _ => ⟨rfl, rfl, rfl, rfl, rfl, rfl, rfl⟩⟩

/-- Settles O13, by the three forms of the LOAD answer. -/
theorem loadAnswerCompletesLoad : Obligations.LoadAnswerCompletesLoad := by
  intro s ok w h cc hp
  refine ⟨?_, ?_, ?_⟩
  · rintro rfl
    exact congrArg _ (engineLoadAnswer_of_fail hp w h cc)
  · rintro rfl hbad
    have hg : s.geometryOk w h = false := by
      rw [← Bool.not_eq_true, State.geometryOk_iff]
      omega
    exact congrArg _ (engineLoadAnswer_of_badGeometry hp hg cc)
  · rintro rfl hw hh hprod
    exact congrArg _ (engineLoadAnswer_of_geometryOk hp (State.geometryOk_iff.2 ⟨hw, hh, hprod⟩) cc)

/-- Settles O14, by the DISPOSE answer in DISPOSE_WAIT. -/
theorem disposeAnswerCompletesDispose : Obligations.DisposeAnswerCompletesDispose := fun _ hp =>
  congrArg _ (engineDisposeAnswer_of_disposeWait hp)

end Sys2Proof.Machine
end

section
/-! What PACK does to a whole frame: every plane byte is the closed form of R133, and the pixels of the final partial group write
nothing (R135). -/

namespace Sys2Proof.Machine

/-! ### The closed form -/

/-- A plane byte after PACK. The pixels of a byte below L lie within the frame, for 8L is at most N. -/
theorem pack_plane_read {s : State} (hL : s.planeLen ≤ 0x2000) {p b : Nat} (hp : p < 6) (hb : b < s.planeLen) :
    (pack s).plane.read (planeKey p b) = some (packedByte s.rawByte p b) := by
  obtain ⟨w, hread, hbits⟩ := packFrame_bits s.planeLen hL s.rawFrame s.plane hp hb
  have hw : w = packedByte s.rawByte p b := by
    refine BitVec.eq_of_getLsbD_eq fun j hj => ?_
    have hpixel : 8 * b + j < s.numPixels := by
      unfold State.planeLen at hb
      omega
    rw [hbits j hj, rawFrame_getD s hpixel, packedByte_bit _ _ _ j hj]
  rw [State.pack_plane, hread, hw]

/-! ### The final partial group -/

/-- The index of the loop never moves down. -/
theorem idx_le_packPixel_idx (len : Nat) (st : PackLoop) (v : Byte) : st.idx ≤ (packPixel len st v).idx := by
  unfold packPixel
  simp only
  split
  · exact Nat.le_succ _
  · exact le_rfl

/-- A pixel whose index is L or more leaves the plane bank as it is (R135). -/
theorem packPixel_plane_of_le_idx {len : Nat} {st : PackLoop} (h : len ≤ st.idx) (v : Byte) :
    (packPixel len st v).plane = st.plane := by
  rw [packPixel_plane]
  exact List.foldl_fixed' (fun _ => if_neg fun hbit => Nat.not_lt.2 h hbit.2) _

/-- Once the index is L, the pixels that are left change nothing. -/
theorem foldl_packPixel_plane_of_le_idx {len : Nat} (frame : List Byte) {st : PackLoop} (h : len ≤ st.idx) :
    (frame.foldl (packPixel len) st).plane = st.plane := by
  induction frame generalizing st with
  | nil => rfl
  | cons v frame ih =>
    rw [List.foldl_cons, ih (h.trans (idx_le_packPixel_idx len st v)), packPixel_plane_of_le_idx h]

/-- Pixels that follow the first 8L are dropped: the index is L after those. -/
theorem packFrame_append {len : Nat} {frame : List Byte} (h : 8 * len ≤ frame.length) (rest : List Byte) (m : Memory Byte) :
    packFrame len (frame ++ rest) m = packFrame len frame m := by
  have hidx := (pack_mask_idx len frame (packZero len m)).1
  unfold packFrame
  rw [List.foldl_append]
  exact foldl_packPixel_plane_of_le_idx rest (by omega)

/-- PACK depends on the first 8L pixels of a frame of at least that length. -/
theorem packFrame_take {len : Nat} {frame : List Byte} (h : 8 * len ≤ frame.length) (m : Memory Byte) :
    packFrame len (frame.take (8 * len)) m = packFrame len frame m := by
  conv_rhs => rw [← List.take_append_drop (8 * len) frame]
  exact (packFrame_append (List.length_take_of_le h).ge _ m).symm

/-- The planes are packed from RAW[0..8L). -/
theorem pack_plane_eq_packFrame_range (s : State) :
    (pack s).plane = packFrame s.planeLen ((List.range (8 * s.planeLen)).map s.rawByte) s.plane := by
  have hle : 8 * s.planeLen ≤ s.numPixels := Nat.mul_div_le _ _
  have htake : s.rawFrame.take (8 * s.planeLen) = (List.range (8 * s.planeLen)).map s.rawByte := by
    rw [State.rawFrame, ← List.map_take, List.take_range, min_eq_left hle]
  rw [State.pack_plane, ← htake, packFrame_take (by simpa [State.rawFrame] using hle)]

end Sys2Proof.Machine
end

section
/-! The obligations of 41_plane_packer.md. -/

namespace Sys2Proof.Machine

/-- Settles O25, by the bits the loop leaves in a plane byte, which are those of the closed form. -/
theorem packLoopHasTheClosedForm : Obligations.PackLoopHasTheClosedForm :=
  fun s hL p hp b hb => ⟨pack_plane_read hL hp hb, packedByte_bit s.rawByte p b⟩

/-- Settles O26, by what zeroing and the loop leave alone and what they write. -/
theorem packWritesOnlyThePlanes : Obligations.PackWritesOnlyThePlanes := fun s =>
  ⟨rfl, fun a ha => packFrame_read_other s.planeLen s.rawFrame s.plane a ha,
    fun _ hp _ hb => packFrame_read_ne_none s.planeLen s.rawFrame s.plane hp hb⟩

/-- Settles O27, pixel by pixel: no plane is made of bit 6 or 7. -/
theorem packIgnoresBitsSixAndSeven : Obligations.PackIgnoresBitsSixAndSeven := by
  intro len frame m
  unfold packFrame
  rw [List.foldl_map]
  simp only [packPixel_mask]

/-- Settles O28: the planes are packed from RAW[0..8L), and L comes from PIXELS. -/
theorem finalPartialGroupIsDropped : Obligations.FinalPartialGroupIsDropped := by
  intro s t hpixels hplane hraw
  have hL : t.planeLen = s.planeLen := congrArg (·.toNat / 8) hpixels
  rw [pack_plane_eq_packFrame_range, pack_plane_eq_packFrame_range, hL, hplane,
    List.map_congr_left fun i hi => hraw i (List.mem_range.1 hi)]

end Sys2Proof.Machine
end

section
/-! The obligations of 42_palette_marshaller.md. -/

namespace Sys2Proof.Machine

/-- After MARSHAL an entry of the palette is the entry of its triple (R150). -/
theorem marshal_palette_read (s : State) {i : Nat} (hi : i < 64) :
    (marshal s).palette.read i = some (s.marshalEntry i) := by
  rw [State.marshal_palette, Memory.read_writeRange_map]
  exact if_pos hi

/-- Settles O23, by the entry MARSHAL writes; it updates the palette alone. -/
theorem marshalIsPositional : Obligations.MarshalIsPositional :=
  fun s => ⟨rfl, fun _ hi => marshal_palette_read s hi⟩

end Sys2Proof.Machine
end

section
/-! The obligations of 43_rotation_schedule.md. -/

namespace Sys2Proof.Machine

/-- After ROTBUILD an entry of the schedule is the entry of its triple, an inactive one too (R160, R162). -/
theorem rotBuild_rot_read (s : State) {j : Nat} (hj : j < 8) :
    (rotBuild s).rot.read j = some (s.rotEntry j) := by
  rw [State.rotBuild_rot, Memory.read_writeRange_map]
  exact if_pos hj

/-- Settles O24, by the entry ROTBUILD writes; it updates the schedule alone. -/
theorem rotationKeepsOrderAndCount : Obligations.RotationKeepsOrderAndCount :=
  fun s => ⟨rfl, fun _ hj => rotBuild_rot_read s hj⟩

end Sys2Proof.Machine
end

section
/-! The steps of a COLORIZE after its acceptance, one after another: COPY, the engine's answer, STAGES and the acknowledgements; then
the Colored Frame they publish, as a function of the dimensions and of the engine's answer alone. -/

namespace Sys2Proof.Machine

/-! ### Runs along the script -/

/-- A step performs the head of the script (R5, R95). -/
theorem step_of_script_cons {s : State} {e : Event} {rest : List Event} (h : s.script = e :: rest) :
    step s = perform e { s with script := rest } := by
  unfold step
  rw [h]

theorem run_one {s t : State} (h : step s = .next t) : Host.Core.run Sys2Proof.core 1 s = .next t :=
  run_succ 0 s t h

/-! ### COPY (R172) -/

theorem blockStep_of_copy {s : State} (hp : s.phase = .copy) : blockStep s = copyStep s := by
  simp only [blockStep, hp]

/-- COPY copies N bytes. -/
theorem State.copiedFrame_length (s : State) : s.copiedFrame.length = s.numPixels := by
  simp [State.copiedFrame]

/-- RAW after COPY: below N a byte of IN, or a draw where IN holds none (log 11); above it what RAW held. -/
theorem copyStep_raw_read (s : State) (i : Nat) : (copyStep s).raw.read i
    = if i < s.numPixels then some ((s.inp.read i).getD (Config.freeByte (s.draws + i))) else s.raw.read i :=
  Memory.read_writeRange_map _ _ _ _

/-- RAW[0..N) after COPY is the copied frame. -/
theorem copyStep_rawFrame (s : State) : (copyStep s).rawFrame = s.copiedFrame := by
  refine List.map_congr_left fun i hi => ?_
  have hN : i < s.numPixels := List.mem_range.1 hi
  rw [State.rawByte, copyStep_raw_read, if_pos hN, Option.getD_some]

/-- The COLORIZE request carries the dimensions and the copied frame. -/
theorem copyStep_engineRequest (s : State) :
    (copyStep s).engineRequest = some (.colorize s.width s.height s.copiedFrame) := by
  rw [← copyStep_rawFrame]
  rfl

/-! ### The engine's answer (R173) -/

/-- The state after the engine's COLORIZE answer raw', pal, rot. -/
def State.answered (s : State) (raw pal rot : List Byte) : State :=
  { s with raw := s.raw.writeRange 0 raw, palStage := s.palStage.writeRange 0 pal,
           rotStage := s.rotStage.writeRange 0 rot, phase := .stages }

theorem engineColorizeAnswer_of_engineWait {s : State} {raw pal rot : List Byte} (hp : s.phase = .engineWait)
    (hraw : raw.length = s.numPixels) (hpal : pal.length = 192) (hrot : rot.length = 24) :
    engineColorizeAnswer raw pal rot s = .next (s.answered raw pal rot) := by
  rw [engineColorizeAnswer, if_neg (not_not.2 hp), if_pos ⟨hraw, hpal, hrot⟩]
  rfl

/-- A run of writes from address 0 reads back, whatever an unwritten address would read as. -/
theorem Memory.read_writeRange_getD {α : Type} (m : Memory α) {vs : List α} {i : Nat} (h : i < vs.length) (d d' : α) :
    ((m.writeRange 0 vs).read i).getD d = vs.getD i d' := by
  rw [Memory.read_writeRange_in m (Nat.zero_le i) (by omega), Nat.sub_zero, List.getD_eq_getElem?_getD,
    List.getElem?_eq_getElem h, Option.getD_some, Option.getD_some]

section
variable {raw pal rot : List Byte} {i : Nat} (s : State)

theorem State.answered_rawByte (h : i < raw.length) : (s.answered raw pal rot).rawByte i = raw.getD i 0 :=
  Memory.read_writeRange_getD _ h _ _

theorem State.answered_palStageByte (h : i < pal.length) : (s.answered raw pal rot).palStageByte i = pal.getD i 0 :=
  Memory.read_writeRange_getD _ h _ _

theorem State.answered_rotStageByte (h : i < rot.length) : (s.answered raw pal rot).rotStageByte i = rot.getD i 0 :=
  Memory.read_writeRange_getD _ h _ _

end

/-! ### STAGES (R174, R175) -/

theorem blockStep_of_stages {s : State} (hp : s.phase = .stages) : blockStep s = stagesStep s := by
  simp only [blockStep, hp]

/-! No builder reads what another writes, so the builders commute. -/

theorem rotBuild_marshal (s : State) : rotBuild (marshal s) = marshal (rotBuild s) := rfl

theorem pack_marshal (s : State) : pack (marshal s) = marshal (pack s) := rfl

theorem pack_rotBuild (s : State) : pack (rotBuild s) = rotBuild (pack s) := rfl

/-- Each builder's result is the one it has on the state before the step. -/
theorem stagesStep_eq (s : State) : stagesStep s
    = { s with palette := (marshal s).palette, rot := (rotBuild s).rot, plane := (pack s).plane,
               pend := s.subEnable &&& subMask s.params.nSub, phase := .publish } := rfl

/-! ### The acknowledgements (R176) -/

/-- In PUBLISH an acknowledgement clears its bit of PEND; where the bit is 0 there is nothing to clear. -/
theorem acknowledge_of_publish {s : State} (hp : s.phase = .publish) (i : Nat) :
    acknowledge i s = { s with pend := s.pend &&& ~~~(1#32 <<< i) } := by
  unfold acknowledge
  split
  · rfl
  · next h =>
    have hi : s.pend.getLsbD i = false := by simpa [hp] using h
    have hclear : s.pend &&& ~~~(1#32 <<< i) = s.pend := BitVec.eq_of_getLsbD_eq fun j _ => by
      rw [getLsbD_clearBit]
      by_cases hj : j = i
      · simp [hj, hi]
      · simp [hj]
    rw [hclear]

/-- An acknowledgement that nothing waits for is ignored. -/
theorem acknowledge_ignored {s : State} {i : Nat} (h : s.phase ≠ .publish ∨ s.pend.getLsbD i = false) :
    acknowledge i s = s := by
  refine if_neg fun ⟨hp, hi⟩ => ?_
  rcases h with hne | hz
  · exact hne hp
  · simp [hz] at hi

/-- Acknowledgements that name every pending subscriber empty PEND and change nothing else, whatever their order: by induction on
them, each clearing its bit and leaving the bits that the later ones name. -/
theorem run_acks {s : State} {order : List Nat} {rest : List Event} (hp : s.phase = .publish)
    (hall : ∀ i, s.pend.getLsbD i = true → i ∈ order) (hs : s.script = order.map .ack ++ rest) :
    Host.Core.run Sys2Proof.core order.length s = .next { s with pend := 0#32, script := rest } := by
  induction order generalizing s with
  | nil =>
    have hz : s.pend = 0#32 := BitVec.eq_of_getLsbD_eq fun i _ => by
      rw [BitVec.getLsbD_zero]
      exact Bool.eq_false_iff.2 fun hi => List.not_mem_nil (hall i hi)
    have hrest : s.script = rest := hs
    rw [← hz, ← hrest]
    rfl
  | cons i order ih =>
    have hstep : step s = .next { s with pend := s.pend &&& ~~~(1#32 <<< i), script := order.map .ack ++ rest } :=
      (step_of_script_cons hs).trans
        (congrArg _ (acknowledge_of_publish (s := { s with script := order.map .ack ++ rest }) hp i))
    refine (run_succ _ _ _ hstep).trans (ih hp (fun j hj => ?_) rfl)
    rw [getLsbD_clearBit, Bool.and_eq_true, decide_eq_true_eq] at hj
    exact (List.mem_cons.1 (hall j hj.1)).resolve_left hj.2

/-! ### From COPY to PUBLISH -/

/-- The state in which a COLORIZE publishes, taken up in COPY and answered raw', pal, rot: the three builders' results on the
answered state, and s in every field that none of the three steps writes. -/
def State.published (s : State) (raw pal rot : List Byte) : State :=
  { s with palette := (marshal ((copyStep s).answered raw pal rot)).palette,
           rot := (rotBuild ((copyStep s).answered raw pal rot)).rot,
           plane := (pack ((copyStep s).answered raw pal rot)).plane,
           raw := ((copyStep s).answered raw pal rot).raw,
           palStage := s.palStage.writeRange 0 pal,
           rotStage := s.rotStage.writeRange 0 rot,
           draws := s.draws + s.numPixels,
           pend := s.subEnable &&& subMask s.params.nSub,
           phase := .publish }

/-- STAGES after the answer to COPY publishes. -/
theorem stagesStep_answered_copyStep (s : State) (raw pal rot : List Byte) :
    stagesStep ((copyStep s).answered raw pal rot) = s.published raw pal rot := stagesStep_eq _

/-- COPY, the engine's answer and STAGES in a row publish. -/
theorem run_published {s : State} {raw pal rot : List Byte} {rest : List Event} (hp : s.phase = .copy)
    (hraw : raw.length = s.numPixels) (hpal : pal.length = 192) (hrot : rot.length = 24)
    (hs : s.script = .block :: .engColorize raw pal rot :: .block :: rest) :
    Host.Core.run Sys2Proof.core 3 s = .next (State.published { s with script := rest } raw pal rot) := by
  have hcopy : step s = .next (copyStep { s with script := .engColorize raw pal rot :: .block :: rest }) :=
    (step_of_script_cons hs).trans
      (congrArg _ (blockStep_of_copy (s := { s with script := .engColorize raw pal rot :: .block :: rest }) hp))
  have hanswer : step (copyStep { s with script := .engColorize raw pal rot :: .block :: rest })
      = .next ((copyStep { s with script := .block :: rest }).answered raw pal rot) :=
    engineColorizeAnswer_of_engineWait (s := copyStep { s with script := .block :: rest }) rfl hraw hpal hrot
  have hstages : step ((copyStep { s with script := .block :: rest }).answered raw pal rot)
      = .next (stagesStep ((copyStep { s with script := rest }).answered raw pal rot)) := rfl
  rw [← stagesStep_answered_copyStep]
  exact (run_succ _ _ _ hcopy).trans ((run_succ _ _ _ hanswer).trans (run_one hstages))

section
variable (s : State) (raw pal rot : List Byte)

@[simp] theorem State.published_lifecycle : (s.published raw pal rot).lifecycle = s.lifecycle := by simp only [State.published]
@[simp] theorem State.published_width : (s.published raw pal rot).width = s.width := by simp only [State.published]
@[simp] theorem State.published_height : (s.published raw pal rot).height = s.height := by simp only [State.published]
@[simp] theorem State.published_frameCount : (s.published raw pal rot).frameCount = s.frameCount := by
  simp only [State.published]
@[simp] theorem State.published_inp : (s.published raw pal rot).inp = s.inp := by simp only [State.published]
@[simp] theorem State.published_planeLen : (s.published raw pal rot).planeLen = s.planeLen := by
  simp only [State.planeLen, State.numPixels, State.pixels, State.published_width, State.published_height]

end

/-! ### The published frame -/

/-- The closed form of a plane byte depends on the eight pixels of its group (R133). -/
theorem packedByte_congr {f g : Nat → Byte} {p b : Nat} (h : ∀ j < 8, f (8 * b + j) = g (8 * b + j)) :
    packedByte f p b = packedByte g p b :=
  BitVec.eq_of_getLsbD_eq fun j hj => by rw [packedByte_bit _ _ _ j hj, packedByte_bit _ _ _ j hj, h j hj]

section
variable {raw pal rot : List Byte} (s : State)

/-- The published palette is the answer's, entry by entry (R150). -/
theorem State.published_palette_read (hpal : pal.length = 192) {i : Nat} (hi : i < 64) :
    (s.published raw pal rot).palette.read i
      = some ⟨pal.getD (3 * i) 0, pal.getD (3 * i + 1) 0, pal.getD (3 * i + 2) 0, 255#8⟩ := by
  rw [State.published, marshal_palette_read _ hi, State.marshalEntry, State.answered_palStageByte _ (by omega),
    State.answered_palStageByte _ (by omega), State.answered_palStageByte _ (by omega), Nat.add_zero]

/-- The published schedule is the answer's, entry by entry (R160). -/
theorem State.published_rot_read (hrot : rot.length = 24) {j : Nat} (hj : j < 8) :
    (s.published raw pal rot).rot.read j
      = some ⟨rot.getD (3 * j) 0, rot.getD (3 * j + 1) 0, rot.getD (3 * j + 2) 0⟩ := by
  rw [State.published, rotBuild_rot_read _ hj, State.rotEntry, State.answered_rotStageByte _ (by omega),
    State.answered_rotStageByte _ (by omega), State.answered_rotStageByte _ (by omega), Nat.add_zero]

/-- The published planes are those of the answer's frame, by the closed form (R133). -/
theorem State.published_plane_read (hL : s.planeLen ≤ 0x2000) (hraw : raw.length = s.numPixels) {p b : Nat} (hp : p < 6)
    (hb : b < s.planeLen) :
    (s.published raw pal rot).plane.read (planeKey p b) = some (packedByte (fun i => raw.getD i 0) p b) := by
  have hpack : (s.published raw pal rot).plane.read (planeKey p b)
      = some (packedByte ((copyStep s).answered raw pal rot).rawByte p b) :=
    pack_plane_read (s := (copyStep s).answered raw pal rot) hL hp hb
  have hpixels : ∀ j < 8, ((copyStep s).answered raw pal rot).rawByte (8 * b + j) = raw.getD (8 * b + j) 0 := fun j hj =>
    State.answered_rawByte _ (by unfold State.planeLen at hb; omega)
  rw [hpack, packedByte_congr (g := fun i => raw.getD i 0) hpixels]

end

/-- A Colored Frame is known by its bytes and entries (R51). -/
theorem coloredFrame_eq {s : State} {len : Nat} {plane : Nat → Nat → Option Byte} {palette : Nat → Option PaletteEntry}
    {rot : Nat → Option RotEntry} (hlen : s.planeLen = len)
    (hplane : ∀ p < 6, ∀ b < len, s.plane.read (planeKey p b) = plane p b)
    (hpalette : ∀ i < 64, s.palette.read i = palette i) (hrot : ∀ j < 8, s.rot.read j = rot j) :
    s.coloredFrame = (planeIndices.map fun p => (List.range len).map (plane p), (List.range Config.nPal).map palette,
      (List.range Config.nRot).map rot) := by
  subst hlen
  unfold State.coloredFrame
  refine Prod.ext ?_ (Prod.ext ?_ ?_)
  · exact List.map_congr_left fun p hp =>
      List.map_congr_left fun b hb => hplane p (mem_planeIndices.1 hp) b (List.mem_range.1 hb)
  · exact List.map_congr_left fun i hi => hpalette i (List.mem_range.1 hi)
  · exact List.map_congr_left fun j hj => hrot j (List.mem_range.1 hj)

/-- The Colored Frame (R51) of the engine's answer raw', pal, rot, its planes len bytes long. -/
def answerFrame (len : Nat) (raw pal rot : List Byte) :
    List (List (Option Byte)) × List (Option PaletteEntry) × List (Option RotEntry) :=
  (planeIndices.map fun p => (List.range len).map fun b => some (packedByte (fun i => raw.getD i 0) p b),
   (List.range Config.nPal).map fun i =>
     some ⟨pal.getD (3 * i) 0, pal.getD (3 * i + 1) 0, pal.getD (3 * i + 2) 0, 255#8⟩,
   (List.range Config.nRot).map fun j => some ⟨rot.getD (3 * j) 0, rot.getD (3 * j + 1) 0, rot.getD (3 * j + 2) 0⟩)

/-- A COLORIZE publishes the Colored Frame of its answer: nothing of the state before but L is in it (R179). -/
theorem State.published_coloredFrame {s : State} {raw pal rot : List Byte} (hL : s.planeLen ≤ 0x2000)
    (hraw : raw.length = s.numPixels) (hpal : pal.length = 192) (hrot : rot.length = 24) :
    (s.published raw pal rot).coloredFrame = answerFrame s.planeLen raw pal rot := by
  refine coloredFrame_eq (s.published_planeLen raw pal rot) ?_ ?_ ?_
  · exact fun p hp b hb => s.published_plane_read hL hraw hp hb
  · exact fun i hi => s.published_palette_read hpal hi
  · exact fun j hj => s.published_rot_read hrot hj

/-! ### A whole COLORIZE (R170) -/

/-- A step that submits a command's word is the command, the bus having taken the write (R23). -/
theorem step_cmd {s : State} {i : Instr} {rest : List Event} (h : s.script = .cmd i :: rest) :
    step s = exec i { s with script := rest, reply := .written } :=
  (step_of_script_cons h).trans ((step_cmdWord { s with script := rest } (encode i)).trans
    (submitCommand_of_command (decodeWord_encode i) _))

/-- A bit of a masked word is a bit of the word: a publish waits for enabled subscribers only (R175). -/
theorem getLsbD_of_masked {v m : Word} {i : Nat} (h : (v &&& m).getLsbD i = true) : v.getLsbD i = true := by
  rw [BitVec.getLsbD_and, Bool.and_eq_true] at h
  exact h.1

/-- A publish that every pending subscriber acknowledges completes at the next block step (R176, R177). -/
theorem run_acks_complete {s : State} {order : List Nat} {rest : List Event} (hp : s.phase = .publish)
    (hall : ∀ i, s.pend.getLsbD i = true → i ∈ order) (hs : s.script = order.map .ack ++ .block :: rest) :
    Host.Core.run Sys2Proof.core (order.length + 1) s
      = .next (completeStep { s with pend := 0#32, script := rest }) := by
  have hstep : step { s with pend := 0#32, script := .block :: rest }
      = .next (completeStep { s with pend := 0#32, script := rest }) :=
    congrArg _ (blockStep_of_published (s := { s with pend := 0#32, script := rest }) hp rfl)
  exact (run_add _ 1 _ _ (run_acks hp hall hs)).trans (run_one hstep)

/-- From COPY to the completion: the three steps to the publish, the acknowledgements, the completion. -/
theorem run_copy_complete {s : State} {raw pal rot : List Byte} {order : List Nat} {rest : List Event}
    (hp : s.phase = .copy) (hraw : raw.length = s.numPixels) (hpal : pal.length = 192) (hrot : rot.length = 24)
    (hall : ∀ i, s.subEnable.getLsbD i = true → i ∈ order)
    (hs : s.script = .block :: .engColorize raw pal rot :: .block :: (order.map .ack ++ .block :: rest)) :
    Host.Core.run Sys2Proof.core (3 + (order.length + 1)) s
      = .next (completeStep { s.published raw pal rot with pend := 0#32, script := rest }) :=
  (run_add 3 _ _ _ (run_published hp hraw hpal hrot hs)).trans
    (run_acks_complete rfl (fun i hi => hall i (getLsbD_of_masked hi)) rfl)

/-- A whole COLORIZE: the acceptance in LOADED, then COPY to the completion. -/
theorem run_colorize {s : State} {raw pal rot : List Byte} {order : List Nat} {rest : List Event} (hp : s.phase = .idle)
    (hl : s.lifecycle = .loaded) (hn : s.inCount = s.pixels) (hraw : raw.length = s.numPixels) (hpal : pal.length = 192)
    (hrot : rot.length = 24) (hall : ∀ i, s.subEnable.getLsbD i = true → i ∈ order)
    (hs : s.script = .cmd .colorize :: .block :: .engColorize raw pal rot :: .block :: (order.map .ack ++ .block :: rest)) :
    Host.Core.run Sys2Proof.core (5 + order.length) s
      = .next (completeStep { State.published { s with reply := .written, phase := .copy } raw pal rot
                              with pend := 0#32, script := rest }) := by
  have hidle : s.busy = false := State.busy_eq_false.2 hp
  rw [show 5 + order.length = 3 + (order.length + 1) + 1 by omega]
  exact (run_succ _ _ _ ((step_cmd hs).trans (exec_colorize_of_loaded hidle hl hn))).trans
    (run_copy_complete rfl hraw hpal hrot hall rfl)

end Sys2Proof.Machine
end

section
/-! The obligations of 44_orchestrator.md. -/

namespace Sys2Proof.Machine

/-- Settles O20, by the copied frame: RAW[0..N) after COPY, and the frame of the request. -/
theorem copyFillsRawFromInput : Obligations.CopyFillsRawFromInput := by
  intro s hp
  refine ⟨copyStep s, congrArg _ (blockStep_of_copy hp), rfl, ?_, ?_, ?_,
    s.copiedFrame, s.copiedFrame_length, ?_, copyStep_engineRequest s⟩
  · intro i b hi hread
    rw [copyStep_raw_read, if_pos hi, hread, Option.getD_some]
  · intro i hi
    rw [copyStep_raw_read, if_pos hi]
    exact Option.some_ne_none _
  · intro i hi
    rw [copyStep_raw_read, if_neg (Nat.not_lt.2 hi)]
  · intro i hi
    have hlt : i < 0 + s.copiedFrame.length := by rw [s.copiedFrame_length]; omega
    exact Memory.read_writeRange_in s.raw (Nat.zero_le i) hlt

/-- Settles O21, by the runs of writes of the answer. -/
theorem colorizeAnswerWritesEngineSpace : Obligations.ColorizeAnswerWritesEngineSpace := by
  intro s raw pal rot hp hraw hpal hrot
  refine ⟨s.answered raw pal rot, engineColorizeAnswer_of_engineWait hp hraw hpal hrot, rfl, ?_, ?_, ?_, ?_⟩
  · exact fun i hi => Memory.read_writeRange_in s.raw (Nat.zero_le i) (by omega)
  · exact fun i hi => Memory.read_writeRange_out s.raw (by omega)
  · exact fun i hi => Memory.read_writeRange_in s.palStage (Nat.zero_le i) (by omega)
  · exact fun i hi => Memory.read_writeRange_in s.rotStage (Nat.zero_le i) (by omega)

/-- Settles O31, by induction on the acknowledgements. -/
theorem everyAcknowledgementOrderEmptiesPend : Obligations.EveryAcknowledgementOrderEmptiesPend :=
  fun _ _ _ hp hall hs => run_acks hp hall hs

/-- Settles O32, by the run of a whole COLORIZE and the frame it publishes. -/
theorem colorizePublishesTheColoredFrame : Obligations.ColorizePublishesTheColoredFrame := by
  intro s raw pal rot order hi hp hl hn hraw hpal hrot hall hs
  have hs' : s.script = .cmd .colorize :: .block :: .engColorize raw pal rot :: .block :: (order.map .ack ++ [.block]) := hs
  have hL : s.planeLen ≤ 0x2000 := State.planeLen_le hi
  refine ⟨_, run_colorize hp hl hn hraw hpal hrot hall hs', rfl, rfl, by simp [completeStep, hl], rfl, by simp [completeStep],
    by simp [completeStep], by simp [completeStep], by simp [completeStep], ?_, ?_, ?_⟩
  · exact fun i h64 => State.published_palette_read _ hpal h64
  · exact fun j h8 => State.published_rot_read _ hrot h8
  · exact fun p h6 b hb => State.published_plane_read { s with reply := .written, phase := .copy } hL hraw h6 hb

/-- Settles O33: each of the two publishes the Colored Frame of the answer, with the L of the common dimensions. -/
theorem equalAnswersGiveEqualColoredFrames : Obligations.EqualAnswersGiveEqualColoredFrames := by
  intro s t raw pal rot hsi hti hsp htp hw hh hraw hpal hrot hss hts
  have hpixels : t.pixels = s.pixels := by rw [State.pixels, State.pixels, hw, hh]
  have hL : t.planeLen = s.planeLen := congrArg (·.toNat / 8) hpixels
  have hrawt : raw.length = t.numPixels := hraw.trans (congrArg BitVec.toNat hpixels.symm)
  refine ⟨_, _, run_published hsp hraw hpal hrot hss, run_published htp hrawt hpal hrot hts, rfl, rfl, ?_⟩
  calc (State.published { s with script := [] } raw pal rot).coloredFrame
      = answerFrame s.planeLen raw pal rot :=
        State.published_coloredFrame (s := { s with script := [] }) (State.planeLen_le hsi) hraw hpal hrot
    _ = answerFrame t.planeLen raw pal rot := by rw [hL]
    _ = (State.published { t with script := [] } raw pal rot).coloredFrame :=
        (State.published_coloredFrame (s := { t with script := [] }) (State.planeLen_le hti) hrawt hpal hrot).symm

/-- Settles O9, by COLORIZE in each lifecycle state. -/
theorem colorizeAcceptance : Obligations.ColorizeAcceptance := fun _ hb =>
  ⟨fun hl hn => ⟨_, exec_colorize_of_loaded hb hl hn, rfl, rfl⟩, fun hl hn => exec_colorize_of_dim hb hl hn,
    fun hl => exec_colorize_of_unloaded hb hl, fun hl => exec_colorize_of_disposed hb hl⟩

/-- Settles O22: the builders commute in pairs, so their six orders leave one state. -/
theorem stagesRunTheThreeBuildersAndPublish : Obligations.StagesRunTheThreeBuildersAndPublish := fun s hp =>
  ⟨congrArg _ ((blockStep_of_stages hp).trans (stagesStep_eq s)), pack_rotBuild (marshal s),
    congrArg pack (rotBuild_marshal s), by rw [pack_rotBuild, pack_marshal],
    by rw [pack_rotBuild, pack_marshal, rotBuild_marshal], by rw [rotBuild_marshal, pack_marshal]⟩

/-- Settles O29, by the bit an acknowledgement clears. -/
theorem acknowledgementClearsItsBit : Obligations.AcknowledgementClearsItsBit := fun s i =>
  ⟨fun hp _ => ⟨_, congrArg _ (acknowledge_of_publish hp i), rfl, getLsbD_clearBit s.pend i⟩,
    fun h => congrArg _ (acknowledge_ignored h)⟩

end Sys2Proof.Machine
end

section
/-! The errors of a command: every CMD write is answered by a next state, and a command that ends with an error has the one form of
the error entry (R211 to R213). -/

namespace Sys2Proof.Machine

/-- A CMD write always has a next state. -/
theorem submitCommand_next (w : Word) (s : State) : ∃ t, submitCommand w s = .next t := by
  unfold submitCommand
  split
  · exact ⟨_, rfl⟩
  · split
    · exact exec_next _ s
    · exact ⟨_, rfl⟩
    · exact ⟨_, rfl⟩

/-- A word that is none of the three command words selects no command (R92, R93). -/
theorem decodeWord_ne_command {w : Word} (h1 : w ≠ 1#32) (h2 : w ≠ 2#32) (h3 : w ≠ 3#32) (i : Instr) :
    decodeWord w ≠ .command i := by
  intro hd
  have hw : w = encode i := decodeWord_eq_command_iff.1 hd
  cases i with
  | load => exact h1 hw
  | colorize => exact h2 hw
  | dispose => exact h3 hw

section
variable {s t : State} (hb : s.busy = false)
include hb

/-- E_DISPOSED is the answer to every command in DISPOSED (R211). -/
theorem exec_of_disposed (i : Instr) (hl : s.lifecycle = .disposed) :
    exec i s = .next { s with err := .disposed, errSticky := true } :=
  match i with
  | .load => exec_load_of_disposed hb hl
  | .colorize => exec_colorize_of_disposed hb hl
  | .dispose => exec_dispose_of_disposed hb hl

/-- A command that ends with an error at its acceptance was not accepted, which would leave IDLE, nor is it the DISPOSE that
completes at once, which clears ERR: it took the error entry (R213). -/
theorem exec_idle_error {i : Instr} (h : exec i s = .next t) (hidle : t.phase = .idle) (herr : t.err ≠ .ok) :
    ∃ c, t = { s with err := c, errSticky := true } := by
  have next_eq {u : State} (hu : exec i s = .next u) : t = u := Host.Outcome.next.inj (h.symm.trans hu)
  rcases s.lifecycle.eq_cases with hl | hl | hl
  · cases i with
    | load =>
      obtain rfl := next_eq (exec_load_of_unloaded hb hl)
      cases hidle
    | colorize => exact ⟨_, next_eq (exec_colorize_of_unloaded hb hl)⟩
    | dispose =>
      obtain rfl := next_eq (exec_dispose_of_unloaded hb hl)
      exact absurd rfl herr
  · cases i with
    | load => exact ⟨_, next_eq (exec_load_of_loaded hb hl)⟩
    | colorize =>
      by_cases hn : s.inCount = s.pixels
      · obtain rfl := next_eq (exec_colorize_of_loaded hb hl hn)
        cases hidle
      · exact ⟨_, next_eq (exec_colorize_of_dim hb hl hn)⟩
    | dispose =>
      obtain rfl := next_eq (exec_dispose_of_loaded hb hl)
      cases hidle
  · exact ⟨_, next_eq (exec_of_disposed hb i hl)⟩

end

/-- A LOAD answer that ends LOAD with an error took the error entry (R113, R213). -/
theorem engineLoadAnswer_error {s : State} {ok : Bool} {w h cc : Word} (hp : s.phase = .loadWait)
    (herr : (engineLoadAnswer ok w h cc s).err ≠ .ok) : ∃ c, engineLoadAnswer ok w h cc s = s.raiseErr c := by
  cases ok with
  | false => exact ⟨_, engineLoadAnswer_of_fail hp w h cc⟩
  | true =>
    cases hg : s.geometryOk w h with
    | false => exact ⟨_, engineLoadAnswer_of_badGeometry hp hg cc⟩
    | true =>
      rw [engineLoadAnswer_of_geometryOk hp hg] at herr
      exact absurd rfl herr

end Sys2Proof.Machine
end

section
/-! The obligations of 60_exceptions.md. -/

namespace Sys2Proof.Machine

/-- Settles O11: a CMD write has one next state, and each clause names the form that the write takes there; the LOAD answer is
O13's. -/
theorem oneErrorInThePriorityOrder : Obligations.OneErrorInThePriorityOrder := by
  constructor
  · intro s w
    obtain ⟨t, ht⟩ := submitCommand_next w (s.answer .written)
    have next_eq {u : State} (hu : submitCommand w (s.answer .written) = .next u) : t = u :=
      Host.Outcome.next.inj (ht.symm.trans hu)
    have exec_eq {i : Instr} {u : State} (hw : w = encode i) (hu : exec i (s.answer .written) = .next u) : t = u :=
      next_eq ((submitCommand_of_command (decodeWord_eq_command_iff.2 hw) _).trans hu)
    refine ⟨t, (step_cmdWord s w).trans ht, ?busy, ?illegal, ?disposed, ?alreadyLoaded, ?notLoaded, ?dim⟩
    case busy => exact fun hb => next_eq (submitCommand_busy (s := s.answer .written) hb w)
    case illegal =>
      intro hb h1 h2 h3
      exact (next_eq (submitCommand_illegal (s := s.answer .written) hb (decodeWord_ne_command h1 h2 h3))).trans
        (State.raiseErr_idle (s := s.answer .written) hb .illegalCmd)
    case disposed =>
      rintro hb (hw | hw | hw) hl
      · exact exec_eq (i := .load) hw (exec_of_disposed (s := s.answer .written) hb .load hl)
      · exact exec_eq (i := .colorize) hw (exec_of_disposed (s := s.answer .written) hb .colorize hl)
      · exact exec_eq (i := .dispose) hw (exec_of_disposed (s := s.answer .written) hb .dispose hl)
    case alreadyLoaded =>
      exact fun hb hw hl => exec_eq (i := .load) hw (exec_load_of_loaded (s := s.answer .written) hb hl)
    case notLoaded =>
      exact fun hb hw hl => exec_eq (i := .colorize) hw (exec_colorize_of_unloaded (s := s.answer .written) hb hl)
    case dim =>
      exact fun hb hw hl hn => exec_eq (i := .colorize) hw (exec_colorize_of_dim (s := s.answer .written) hb hl hn)
  · intro s ok w h cc hp
    obtain ⟨hfail, hgeom, -⟩ := loadAnswerCompletesLoad s ok w h cc hp
    have err_eq {u : State} (hu : step (s.withNext (.engLoad ok w h cc)) = .next u) :
        (engineLoadAnswer ok w h cc s).err = u.err := congrArg State.err (Host.Outcome.next.inj hu)
    exact ⟨_, rfl, fun hok => err_eq (hfail hok), fun hok hbad => err_eq (hgeom hok hbad)⟩

/-- Settles O12: the error entry writes ERR, ERR_STICKY and PHASE only, and at the acceptance PHASE is IDLE already. -/
theorem errorsChangeOnlyTheErrorFields : Obligations.ErrorsChangeOnlyTheErrorFields := by
  constructor
  · intro i s t hb h hidle herr
    obtain ⟨c, rfl⟩ := exec_idle_error hb h hidle herr
    rfl
  · intro s t ok w h cc hp hstep herr
    obtain rfl : engineLoadAnswer ok w h cc s = t := Host.Outcome.next.inj hstep
    obtain ⟨c, hc⟩ := engineLoadAnswer_error hp herr
    rw [hc]
    rfl

end Sys2Proof.Machine
end

section
/-! What ends a phase and who writes PEND and a command's operands: what one effect leaves alone while the block is busy. -/

namespace Sys2Proof.Machine

/-- What a step other than RST must be to end the phase: the answer of the engine to the request of that phase, or in PUBLISH a
step with nobody to wait for; IDLE, COPY and STAGES wait for no peer (R170, R242). -/
def State.phaseEndedBy (s : State) (e : Option Event) : Prop :=
  match s.phase with
  | .idle => True
  | .loadWait => ∃ ok w h cc, e = some (.engLoad ok w h cc)
  | .disposeWait => e = some .engDispose
  | .copy => True
  | .engineWait => ∃ raw pal rot, e = some (.engColorize raw pal rot)
  | .stages => True
  | .publish => s.pend = 0#32

section
variable {e : Option Event} {s u : State}

/-- An idle block waits for no peer. -/
theorem State.phaseEndedBy_of_idle (hb : s.busy = false) : s.phaseEndedBy e := by
  simp only [State.phaseEndedBy, State.busy_eq_false.1 hb]

/-- PHASE is written by what ends the phase and by RST (R49, R242). -/
theorem Effect.phase_writers (h : Effect e s u) : u.phase = s.phase ∨ s.phaseEndedBy e ∨ e = some .rst := by
  cases h with
  | refused _ _ hb | loadAccepted hb | colorizeAccepted hb | disposeAccepted hb | disposedAtOnce hb =>
    exact .inr (.inl (State.phaseEndedBy_of_idle hb))
  | loadFailed _ _ hp hh => exact .inr (.inl (by simpa only [State.phaseEndedBy, hp] using hh))
  | loaded _ _ _ hp _ hh => exact .inr (.inl (by simpa only [State.phaseEndedBy, hp] using ⟨_, _, _, _, hh⟩))
  | disposed hp hh => exact .inr (.inl (by simpa only [State.phaseEndedBy, hp] using hh))
  | answered _ _ _ hp _ hh => exact .inr (.inl (by simpa only [State.phaseEndedBy, hp] using ⟨_, _, _, hh⟩))
  | copied hp | staged hp => exact .inr (.inl (by simp only [State.phaseEndedBy, hp]))
  | completed hp hz => exact .inr (.inl (by simpa only [State.phaseEndedBy, hp] using hz))
  | wasReset hh => exact .inr (.inr hh)
  | _ => exact .inl rfl

/-- PEND is written in STAGES, by an acknowledgement, which clears its own bit, and by RST (R50, R175, R176, R230). -/
theorem Effect.pend_writers (h : Effect e s u) :
    u.pend = s.pend ∨ s.phase = .stages
    ∨ (∃ i, e = some (.ack i) ∧ u.pend = s.pend &&& ~~~(1#32 <<< i)) ∨ e = some .rst := by
  cases h with
  | staged hp => exact .inr (.inl hp)
  | acknowledged i _ _ hh => exact .inr (.inr (.inl ⟨i, hh, rfl⟩))
  | wasReset hh => exact .inr (.inr (.inr hh))
  | _ => exact .inl rfl

/-- IN_COUNT, LOAD_ARG and SUB_ENABLE are written on an idle block and by RST (R37 to R39, R237). -/
theorem Effect.operand_writers (h : Effect e s u) :
    (u.inCount = s.inCount ∧ u.loadArg = s.loadArg ∧ u.subEnable = s.subEnable) ∨ s.busy = false ∨ e = some .rst := by
  cases h with
  | inCount _ hb | loadArg _ hb | subEnable _ hb => exact .inr (.inl hb)
  | wasReset hh => exact .inr (.inr hh)
  | _ => exact .inl ⟨rfl, rfl, rfl⟩

end

/-- A script that is none with the event in front does not have it as its head. -/
theorem script_head?_ne {s : State} {e : Event} (h : ∀ rest, s.script ≠ e :: rest) : s.script.head? ≠ some e := fun he =>
  let ⟨rest, hs⟩ := List.head?_eq_some_iff.1 he
  h rest hs

/-- While a phase is not ended, a step that is not RST leaves it as it is. -/
theorem step_phase_of_not_ended {s t : State} (hnr : ¬ s.resetNext) (h : step s = .next t)
    (hw : ¬ s.phaseEndedBy s.script.head?) : t.phase = s.phase := by
  obtain ⟨u, _, _, _, hu, rfl⟩ := step_next_eq h
  rcases hu.phase_writers with hsame | hend | he
  · exact hsame
  · exact absurd hend hw
  · exact absurd (resetNext_of_head? he) hnr

/-- In PUBLISH a step that is not RST leaves every bit of PEND as it is but the one it acknowledges. -/
theorem step_keeps_pend_bit {s t : State} (hnr : ¬ s.resetNext) (h : step s = .next t) (hp : s.phase = .publish) {i : Nat}
    (hack : ∀ rest, s.script ≠ .ack i :: rest) : t.pend.getLsbD i = s.pend.getLsbD i := by
  obtain ⟨u, _, _, _, hu, rfl⟩ := step_next_eq h
  rcases hu.pend_writers with hsame | hst | ⟨j, he, hclear⟩ | he
  · exact congrArg (·.getLsbD i) hsame
  · simp [hp] at hst
  · have hne : i ≠ j := fun hij => script_head?_ne hack (hij ▸ he)
    calc u.pend.getLsbD i = (s.pend &&& ~~~(1#32 <<< j)).getLsbD i := congrArg (·.getLsbD i) hclear
      _ = s.pend.getLsbD i := by rw [getLsbD_clearBit]; simp [hne]
  · exact absurd (resetNext_of_head? he) hnr

/-- On a busy block a step that is not RST changes no operand of the command in progress (R91, R237). -/
theorem step_keeps_operands {s t : State} (hb : s.busy = true) (hnr : ¬ s.resetNext) (h : step s = .next t) :
    t.inCount = s.inCount ∧ t.loadArg = s.loadArg ∧ t.subEnable = s.subEnable ∧ t.inp = s.inp := by
  obtain ⟨u, _, _, _, hu, rfl⟩ := step_next_eq h
  have hinp : u.inp = s.inp := by
    rcases hu.inp_writers with hsame | ⟨hidle, -⟩ | he
    · exact hsame
    · simp [hb] at hidle
    · exact absurd (resetNext_of_head? he) hnr
  rcases hu.operand_writers with ⟨hcount, harg, hsub⟩ | hidle | he
  · exact ⟨hcount, harg, hsub, hinp⟩
  · simp [hb] at hidle
  · exact absurd (resetNext_of_head? he) hnr

end Sys2Proof.Machine
end

section
/-! Reads that meet a byte nothing has written, reads in the middle of a COLORIZE, and writes to a busy block, as steps. -/

namespace Sys2Proof.Machine

/-! ### Bytes not written since reset (R241) -/

/-- A palette entry that nothing has written has no byte to read. -/
theorem readTarget_palette_unwritten {s : State} (hs : s.bankUnspecified = false) {i : Nat} (h : s.palette.read i = none)
    (k : Nat) : s.readTarget (.palette i k) = .unwritten := by
  rw [State.readTarget, h, State.bankByte_of_specified hs]
  rfl

/-- A rotation entry that nothing has written has no byte to read, its flags included. -/
theorem readTarget_rot_unwritten {s : State} (hs : s.bankUnspecified = false) {j : Nat} (h : s.rot.read j = none)
    (k : Nat) : s.readTarget (.rot j k) = .unwritten := by
  rw [State.readTarget, h, State.bankByte_of_specified hs]
  rfl

/-- A plane byte below L that nothing has written. -/
theorem readTarget_plane_unwritten {s : State} (hs : s.bankUnspecified = false) {p b : Nat} (hb : b < s.planeLen)
    (h : s.plane.read (planeKey p b) = none) : s.readTarget (.plane p b) = .unwritten := by
  rw [State.readTarget, if_pos hb, h, State.bankByte_of_specified hs]
  rfl

/-- A byte of IN that nothing has written. -/
theorem readTarget_input_unwritten {s : State} {i : Nat} (hi : i < s.params.maxPixels) (h : s.inp.read i = none) :
    s.readTarget (.input i) = .unwritten := by
  rw [State.readTarget, if_pos hi, h]
  rfl

/-- The bytes of an aligned access to a plane window belong to one plane (R61, R65). -/
theorem targetAt_plane_byte {p b n k : Nat} (hp : p < 6) (hb : b < 0x2000) (hn : n = 1 ∨ n = 2 ∨ n = 4)
    (ha : (0x20000 + 0x2000 * p + b) % n = 0) (hk : k < n) :
    targetAt (0x20000 + 0x2000 * p + b + k) = .plane p (b + k) := by
  have hbound : 0x20000 + 0x2000 * p + b + k < 0x20000 + 0x2000 * p + 0x2000 :=
    aligned_add_lt hn ha hk (by omega) (by omega)
  rw [Nat.add_assoc]
  exact targetAt_plane hp (by omega)

/-- A read with a byte that nothing has written faults (R241, log 9). -/
theorem step_hostRead_unwritten {s : State} {n off k : Nat} (h1 : 0x01000 ≤ off) (h2 : off < 0x40000)
    (hn : n = 1 ∨ n = 2 ∨ n = 4) (ha : off % n = 0) (hk : k < n) (hu : s.readTarget (targetAt (off + k)) = .unwritten) :
    step (s.withNext (.hostRead n off)) = .fault (.unwrittenRead off) := by
  have hmem : .unwritten ∈ s.readWindow n off := List.mem_map.2 ⟨k, List.mem_range.2 hk, hu⟩
  exact (hostRead_window h1 h2 hn ha s).trans (readWindowAnswer_unwritten hmem)

/-! ### Reads in the middle of a COLORIZE (R238) -/

/-- The output bank is unspecified in COPY, ENGINE_WAIT and STAGES. -/
theorem State.bankUnspecified_of_phase {s : State} (h : s.phase = .copy ∨ s.phase = .engineWait ∨ s.phase = .stages) :
    s.bankUnspecified = true := by
  rcases h with hp | hp | hp <;> simp only [State.bankUnspecified, hp]

/-- In these phases a byte of the output bank is unspecified, written or not (log 24). -/
theorem State.bankByte_of_unspecified {s : State} (hs : s.bankUnspecified = true) (b : Option Byte) :
    s.bankByte b = .unspecified := if_pos hs

/-- In these phases each byte of the palette and rotation windows is unspecified (R238). -/
theorem readTarget_entries_unspecified {s : State} (hs : s.bankUnspecified = true) {off : Nat} (h1 : 0x01000 ≤ off)
    (h2 : off < 0x01120) : s.readTarget (targetAt off) = .unspecified := by
  by_cases hpal : off < 0x01100
  · rw [targetAt, if_pos ⟨h1, hpal⟩]
    exact State.bankByte_of_unspecified hs _
  · rw [targetAt, if_neg (by omega), if_pos ⟨by omega, h2⟩]
    exact State.bankByte_of_unspecified hs _

/-- In these phases each plane byte below L is unspecified (R238). -/
theorem readTarget_plane_unspecified {s : State} (hs : s.bankUnspecified = true) {p b : Nat} (hb : b < s.planeLen) :
    s.readTarget (.plane p b) = .unspecified := (if_pos hb).trans (State.bankByte_of_unspecified hs _)

/-- A read whose first byte is a draw and whose byte k is g k, its own draw perhaps, answers these bytes and counts n draws. -/
theorem step_hostRead_drawn {s : State} {n off : Nat} (h1 : 0x01000 ≤ off) (h2 : off < 0x40000)
    (hn : n = 1 ∨ n = 2 ∨ n = 4) (ha : off % n = 0) (h0 : s.readTarget (targetAt off) = .unspecified) (g : Nat → Byte)
    (hg : ∀ k < n, (s.readTarget (targetAt (off + k))).resolve (s.draws + k) = some (g k)) :
    step (s.withNext (.hostRead n off))
      = .next { s with reply := .data (leWord ((List.range n).map g)), draws := s.draws + n } := by
  have hmem : .unspecified ∈ s.readWindow n off := List.mem_map.2 ⟨0, List.mem_range.2 (by omega), h0⟩
  have hbytes : resolveAll s.draws (s.readWindow n off) = some ((List.range n).map g) := resolveAll_map n s.draws hg
  refine (hostRead_window h1 h2 hn ha s).trans ?_
  rw [readWindowAnswer, hbytes, if_pos hmem]

/-! ### Writes to a busy block (R236, R237) -/

/-- A busy block drops a write to CMD, whatever its value, and to each read-write register. -/
theorem writeReg_busy {s : State} (hb : s.busy = true) {r : Reg} (hr : r ∈ [Reg.cmd, .inCount, .loadArg, .subEnable])
    (v : Word) : writeReg r v s = .next s.dropWrite := by
  cases r with
  | cmd => exact submitCommand_busy hb v
  | inCount | loadArg | subEnable => exact congrArg _ (State.whenIdle_busy hb _)
  | _ => simp at hr

/-- A busy block drops a write to IN below MAX_PIXELS. -/
theorem writeInput_busy {s : State} (hb : s.busy = true) {i : Nat} (hi : i < s.params.maxPixels) (bs : List Byte) :
    writeInput i bs s = s.dropWrite := (if_pos hi).trans (State.whenIdle_busy hb _)

end Sys2Proof.Machine
end

section
/-! What RST leaves (R230, R231), and the peers' steps that an idle block ignores. -/

namespace Sys2Proof.Machine

/-- A LOAD answer that no request waits for is ignored (R231). -/
theorem engineLoadAnswer_ignored {s : State} (hp : s.phase ≠ .loadWait) (ok : Bool) (w h cc : Word) :
    engineLoadAnswer ok w h cc s = s := if_pos hp

/-- A COLORIZE answer that no request waits for is ignored, whatever its arrays (R231). -/
theorem engineColorizeAnswer_ignored {s : State} (hp : s.phase ≠ .engineWait) (raw pal rot : List Byte) :
    engineColorizeAnswer raw pal rot s = .next s := if_pos hp

/-- A DISPOSE answer that no request waits for is ignored (R231). -/
theorem engineDisposeAnswer_ignored {s : State} (hp : s.phase ≠ .disposeWait) : engineDisposeAnswer s = s := if_pos hp

/-- STATUS reads 0 after reset: its three fields and its derived bits are 0 (R31). -/
theorem resetWith_status (p : Config.Params) : (State.resetWith p).status = 0#32 := by
  simp [State.status, State.resetWith, State.pub, State.src4, State.busy, Lifecycle.code, ErrCode.code]

/-- R52 holds after reset: UNLOADED, with no binding, and IDLE. -/
theorem resetWith_stateInv {p : Config.Params} (hw : p.wf) : (State.resetWith p).stateInv :=
  (State.stateInv_iff _).2 ⟨hw, ⟨rfl, rfl, rfl⟩, trivial⟩

/-- All the invariants hold after reset: the memories are empty and the masks 0. -/
theorem resetWith_Inv {p : Config.Params} (hw : p.wf) : (State.resetWith p).Inv := by
  refine ⟨resetWith_stateInv hw, ⟨.nil, .nil, .nil, .nil, .nil, .nil, .nil⟩, ?bounds, ?bank,
    State.hiddenInv_of_phase nofun nofun⟩
  case bounds => exact ⟨nofun, nofun, nofun, nofun, nofun, nofun, nofun, nofun, BitVec.zero_and, BitVec.zero_and⟩
  case bank =>
    have hempty : (State.resetWith p).bankEmpty := ⟨rfl, rfl, rfl⟩
    exact ⟨.inl hempty, fun _ => hempty, nofun⟩

end Sys2Proof.Machine
end

section
/-! The obligations of 70_reset_and_hazards.md. -/

namespace Sys2Proof.Machine

/-- Settles O19: the waiting phases by what ends each, and PEND by its writers. -/
theorem stallsHaveNoTimeLimit : Obligations.StallsHaveNoTimeLimit := by
  intro s t hnr h
  have stays := step_phase_of_not_ended hnr h
  refine ⟨fun hp hno => ?load, fun hp hno => ?colorize, fun hp hno => ?dispose,
    fun hp hz => ⟨?publish, fun i hi hno => ?pend⟩⟩
  case load =>
    refine (stays ?_).trans hp
    simpa only [State.phaseEndedBy, hp, not_exists] using fun ok w h cc => script_head?_ne (hno ok w h cc)
  case colorize =>
    refine (stays ?_).trans hp
    simpa only [State.phaseEndedBy, hp, not_exists] using fun raw pal rot => script_head?_ne (hno raw pal rot)
  case dispose =>
    refine (stays ?_).trans hp
    simpa only [State.phaseEndedBy, hp] using script_head?_ne hno
  case publish => exact (stays (by simpa only [State.phaseEndedBy, hp] using hz)).trans hp
  case pend => exact (step_keeps_pend_bit hnr h hp hno).trans hi

/-- Settles O49: each clause names a byte of the access that nothing has written. -/
theorem unwrittenReadsFault : Obligations.UnwrittenReadsFault := by
  intro s n off hw hn ha
  obtain ⟨-, hmax, -⟩ := hw
  constructor
  · rintro i rfl hi ⟨k, hk, hnone⟩
    refine step_hostRead_unwritten (by omega) (by omega) hn ha hk ?_
    rw [Nat.add_assoc, targetAt_input (by omega)]
    exact readTarget_input_unwritten (by omega) hnone
  · intro hs
    refine ⟨fun h1 h2 hnone => ?palette, fun h1 h2 hnone => ?rot, ?plane⟩
    case palette =>
      refine step_hostRead_unwritten (k := 0) h1 (by omega) hn ha (by omega) ?_
      rw [Nat.add_zero, targetAt, if_pos ⟨h1, h2⟩]
      exact readTarget_palette_unwritten hs hnone _
    case rot =>
      refine step_hostRead_unwritten (k := 0) (by omega) (by omega) hn ha (by omega) ?_
      rw [Nat.add_zero, targetAt, if_neg (by omega), if_pos ⟨h1, h2⟩]
      exact readTarget_rot_unwritten hs hnone _
    case plane =>
      rintro p b hp hb rfl ⟨k, hk, hL, hnone⟩
      refine step_hostRead_unwritten (by omega) (by omega) hn ha hk ?_
      rw [targetAt_plane_byte hp hb hn ha hk]
      exact readTarget_plane_unwritten hs hL hnone

/-- Settles O50: every byte of the access is a draw, but for the plane bytes at and above L, which are 0. -/
theorem bankReadsDuringColorizeAreDraws : Obligations.BankReadsDuringColorizeAreDraws := by
  intro s n off hphase hn ha
  have hs := State.bankUnspecified_of_phase hphase
  constructor
  · intro h1 h2
    refine step_hostRead_drawn h1 (by omega) hn ha (readTarget_entries_unspecified hs h1 h2) _ fun k hk => ?_
    rw [readTarget_entries_unspecified hs (by omega) (aligned_add_lt hn ha hk rfl h2)]
    rfl
  · rintro p b hp hb hL rfl
    refine step_hostRead_drawn (by omega) (by omega) hn ha ?head _ fun k hk => ?_
    case head =>
      rw [targetAt_plane hp hb]
      exact readTarget_plane_unspecified hs hL
    rw [targetAt_plane_byte hp hb hn ha hk]
    split
    · next hkL => rw [readTarget_plane_unspecified hs hkL]; rfl
    · next hkL => rw [readTarget_plane_above (by omega)]; rfl

/-- Settles O52: the write is dropped after the bus has taken it, and the writers of the operands need an idle block. -/
theorem writesWhileBusyAreDropped : Obligations.WritesWhileBusyAreDropped := by
  refine ⟨fun s v hb => ⟨fun r hr => ?_, fun n i hn ha hi hwin => ?_⟩, fun _ _ => step_keeps_operands⟩
  · exact (step_hostWrite_reg s r v).trans (writeReg_busy (s := s.answer .written) hb hr v)
  · refine (hostWrite_window (by omega) (by omega) hn (aligned_add hn rfl ha) v s).trans (congrArg _ ?_)
    rw [writeWindow, targetAt_input hwin]
    exact writeInput_busy (s := s.answer .written) hb hi _

/-- Settles O53: RST is the assignment of the reset values, and each register reads its own. -/
theorem resetSetsTheResetValues : Obligations.ResetSetsTheResetValues := by
  refine ⟨fun s => ⟨resetStep s, rfl, rfl, rfl⟩, rfl, ?_⟩
  rintro p _ rfl
  refine ⟨fun r hr => ?_, rfl, rfl, rfl, rfl, rfl, rfl, rfl, rfl, fun a => ⟨rfl, rfl, rfl, rfl, rfl, rfl, rfl⟩⟩
  cases r with
  | paramMaxPixels | paramNSub => simp at hr
  | status => exact resetWith_status p
  | planeLen => exact BitVec.zero_ushiftRight
  | _ => rfl

/-- Settles O54: RST leaves IDLE, and each late answer is for a phase that waits for it. -/
theorem resetAbandonsTheCommand : Obligations.ResetAbandonsTheCommand := by
  intro s t h
  obtain rfl : resetStep s = t := Host.Outcome.next.inj h
  have hp (ph : Phase) (hne : ph ≠ .idle) : (resetStep s).phase ≠ ph := hne.symm
  refine ⟨rfl, rfl, rfl, fun ok w h cc => ?_, fun raw pal rot => ?_, ?_, fun i => ?_⟩
  · exact congrArg _ (engineLoadAnswer_ignored (hp .loadWait nofun) ok w h cc)
  · exact engineColorizeAnswer_ignored (hp .engineWait nofun) raw pal rot
  · exact congrArg _ (engineDisposeAnswer_ignored (hp .disposeWait nofun))
  · exact congrArg _ (acknowledge_ignored (.inl (hp .publish nofun)))

/-- Settles O58, by the invariants after reset; the parameters of log 4 are admitted. -/
theorem everyInvariantHoldsAtReset : Obligations.EveryInvariantHoldsAtReset := fun _ hw =>
  ⟨resetWith_Inv hw, resetWith_Inv (by decide)⟩

end Sys2Proof.Machine
end
